-- ==== Sys2Proof/Word.lean ====
section
/-! DEFINITION. The word of the machine (spec/00_scope.md R7, R10, R11) and its bytes. -/

namespace Sys2Proof

/-- A word: 256 bits (R7, R17). -/
abbrev Word := BitVec 256

/-- A byte of code, memory or return data. -/
abbrev Byte := BitVec 8

/-- The signed view of a word, most significant bit as sign (R11). -/
abbrev signed (v : Word) : Int := v.toInt

/-- `u256(v) = v mod 2^256` for a natural number (R10). -/
abbrev u256 (v : Nat) : Word := BitVec.ofNat 256 v

/-- `u256(v) = v mod 2^256` for an integer (R10). -/
abbrev u256Int (v : Int) : Word := BitVec.ofInt 256 v

end Sys2Proof
end

