-- ==== Sys2Proof/Syntax.lean ====
section
/-! DEFINITION. The instructions of profile EVMC-CORE-1: one constructor per row of
spec/opcode_table.json (spec/30_encoding.md R106), and the immediate each one carries. -/

namespace Sys2Proof

/-- One instruction. No instruction has register or mode fields (R101); only PUSHn has an operand
in its encoding, `n` immediate bytes read as one unsigned number (R103). -/
inductive Instr where
  -- Arithmetic (spec/41_arithmetic.md)
  | add | mul | sub | div | sdiv | mod | smod | addmod | mulmod | exp | signextend
  -- Comparison, bitwise and shift (spec/42_compare_bitwise.md)
  | lt | gt | slt | sgt | eq | iszero | and | or | xor | not | byte | shl | shr | sar
  -- Stack (spec/43_stack.md); the argument of PUSHn is its immediate, zero-extended to a word (R103)
  | pop | push1 (imm : Word) | push2 (imm : Word) | push3 (imm : Word) | push4 (imm : Word)
  | push5 (imm : Word) | push6 (imm : Word) | push7 (imm : Word) | push8 (imm : Word)
  | push9 (imm : Word) | push10 (imm : Word) | push11 (imm : Word) | push12 (imm : Word)
  | push13 (imm : Word) | push14 (imm : Word) | push15 (imm : Word) | push16 (imm : Word)
  | push17 (imm : Word) | push18 (imm : Word) | push19 (imm : Word) | push20 (imm : Word)
  | push21 (imm : Word) | push22 (imm : Word) | push23 (imm : Word) | push24 (imm : Word)
  | push25 (imm : Word) | push26 (imm : Word) | push27 (imm : Word) | push28 (imm : Word)
  | push29 (imm : Word) | push30 (imm : Word) | push31 (imm : Word) | push32 (imm : Word) | dup1
  | dup2 | dup3 | dup4 | dup5 | dup6 | dup7 | dup8 | dup9 | dup10 | dup11 | dup12 | dup13 | dup14
  | dup15 | dup16 | swap1 | swap2 | swap3 | swap4 | swap5 | swap6 | swap7 | swap8 | swap9 | swap10
  | swap11 | swap12 | swap13 | swap14 | swap15 | swap16
  -- Memory (spec/44_memory_ops.md)
  | mload | mstore | mstore8 | msize
  -- Gas and storage port (spec/45_gas_storage.md)
  | gas | sload | sstore
  -- Control flow (spec/46_control_flow.md)
  | jump | jumpi | jumpdest | pc
  -- Halting (spec/47_halting.md)
  | stop | ret | revert | invalid
  deriving DecidableEq, Repr

/-- The immediate of an instruction: how many bytes it has (0 for every opcode but PUSHn, R102) and
its value. -/
def Instr.immediate : Instr → Nat × Word
  | .stop | .add | .mul | .sub | .div | .sdiv | .mod | .smod | .addmod | .mulmod | .exp
  | .signextend | .lt | .gt | .slt | .sgt | .eq | .iszero | .and | .or | .xor | .not | .byte
  | .shl | .shr | .sar | .pop | .mload | .mstore | .mstore8 | .sload | .sstore | .jump | .jumpi
  | .pc | .msize | .gas | .jumpdest | .dup1 | .dup2 | .dup3 | .dup4 | .dup5 | .dup6 | .dup7
  | .dup8 | .dup9 | .dup10 | .dup11 | .dup12 | .dup13 | .dup14 | .dup15 | .dup16 | .swap1
  | .swap2 | .swap3 | .swap4 | .swap5 | .swap6 | .swap7 | .swap8 | .swap9 | .swap10 | .swap11
  | .swap12 | .swap13 | .swap14 | .swap15 | .swap16 | .ret | .revert | .invalid => (0, 0)
  | .push1 imm => (1, imm)
  | .push2 imm => (2, imm)
  | .push3 imm => (3, imm)
  | .push4 imm => (4, imm)
  | .push5 imm => (5, imm)
  | .push6 imm => (6, imm)
  | .push7 imm => (7, imm)
  | .push8 imm => (8, imm)
  | .push9 imm => (9, imm)
  | .push10 imm => (10, imm)
  | .push11 imm => (11, imm)
  | .push12 imm => (12, imm)
  | .push13 imm => (13, imm)
  | .push14 imm => (14, imm)
  | .push15 imm => (15, imm)
  | .push16 imm => (16, imm)
  | .push17 imm => (17, imm)
  | .push18 imm => (18, imm)
  | .push19 imm => (19, imm)
  | .push20 imm => (20, imm)
  | .push21 imm => (21, imm)
  | .push22 imm => (22, imm)
  | .push23 imm => (23, imm)
  | .push24 imm => (24, imm)
  | .push25 imm => (25, imm)
  | .push26 imm => (26, imm)
  | .push27 imm => (27, imm)
  | .push28 imm => (28, imm)
  | .push29 imm => (29, imm)
  | .push30 imm => (30, imm)
  | .push31 imm => (31, imm)
  | .push32 imm => (32, imm)

/-- The length of an instruction in bytes: one opcode byte and its immediate bytes (R100, R102). -/
def Instr.length (i : Instr) : Nat := 1 + i.immediate.1

end Sys2Proof
end

