-- ==== Sys2Proof/WellFormed.lean ====
section
/-! DEFINITION. When an instruction, as syntax, has an encoding (spec/30_encoding.md R111). -/

namespace Sys2Proof

/-- The immediate of PUSHn fits in its `n` bytes (R111: a number "that fits in `8n` bits"); an
instruction with no immediate is always well formed. -/
abbrev Instr.WellFormed (i : Instr) : Prop := i.immediate.2.toNat < 2 ^ (8 * i.immediate.1)

end Sys2Proof
end

