-- ==== Sys2Proof/Decode.lean ====
section
/-! DEFINITION. The opcode map of spec/30_encoding.md: the byte of each instruction (R106), the
decoder, total on any bytes (R110), the encoder, and the host's reading of opcode-table words. -/

namespace Sys2Proof

/-! ### Byte strings and numbers (R12, R70, R103) -/

/-- The unsigned number whose most significant byte is the first: `be(bytes)` of R12. -/
def beNat (bytes : List Byte) : Nat :=
  bytes.foldl (fun acc b => acc * 256 + b.toNat) 0

/-- The `n`-byte big-endian string of `v mod 2^(8n)` (R70). -/
def beBytes : Nat → Nat → List Byte
  | 0, _ => []
  | n + 1, v => beBytes n (v / 256) ++ [BitVec.ofNat 8 v]

/-- The `n` bytes that begin `bytes`, where a byte past the end reads 0 (R14, R104). -/
def takeZeroFilled : Nat → List Byte → List Byte
  | 0, _ => []
  | n + 1, [] => 0 :: takeZeroFilled n []
  | n + 1, b :: rest => b :: takeZeroFilled n rest

/-- The immediate of PUSHn read from the bytes after its opcode: big-endian, zero-extended, bytes
past the end of code 0 (R103, R104). -/
def readImmediate (n : Nat) (rest : List Byte) : Word :=
  BitVec.ofNat 256 (beNat (takeZeroFilled n rest))

/-! ### Opcode bytes -/

/-- The opcode byte of an instruction (R106). -/
def opcode : Instr → Byte
  | .stop => 0x00 | .add => 0x01 | .mul => 0x02 | .sub => 0x03 | .div => 0x04 | .sdiv => 0x05
  | .mod => 0x06 | .smod => 0x07 | .addmod => 0x08 | .mulmod => 0x09 | .exp => 0x0A
  | .signextend => 0x0B | .lt => 0x10 | .gt => 0x11 | .slt => 0x12 | .sgt => 0x13 | .eq => 0x14
  | .iszero => 0x15 | .and => 0x16 | .or => 0x17 | .xor => 0x18 | .not => 0x19 | .byte => 0x1A
  | .shl => 0x1B | .shr => 0x1C | .sar => 0x1D | .pop => 0x50 | .mload => 0x51 | .mstore => 0x52
  | .mstore8 => 0x53 | .sload => 0x54 | .sstore => 0x55 | .jump => 0x56 | .jumpi => 0x57
  | .pc => 0x58 | .msize => 0x59 | .gas => 0x5A | .jumpdest => 0x5B | .push1 _ => 0x60
  | .push2 _ => 0x61 | .push3 _ => 0x62 | .push4 _ => 0x63 | .push5 _ => 0x64 | .push6 _ => 0x65
  | .push7 _ => 0x66 | .push8 _ => 0x67 | .push9 _ => 0x68 | .push10 _ => 0x69
  | .push11 _ => 0x6A | .push12 _ => 0x6B | .push13 _ => 0x6C | .push14 _ => 0x6D
  | .push15 _ => 0x6E | .push16 _ => 0x6F | .push17 _ => 0x70 | .push18 _ => 0x71
  | .push19 _ => 0x72 | .push20 _ => 0x73 | .push21 _ => 0x74 | .push22 _ => 0x75
  | .push23 _ => 0x76 | .push24 _ => 0x77 | .push25 _ => 0x78 | .push26 _ => 0x79
  | .push27 _ => 0x7A | .push28 _ => 0x7B | .push29 _ => 0x7C | .push30 _ => 0x7D
  | .push31 _ => 0x7E | .push32 _ => 0x7F | .dup1 => 0x80 | .dup2 => 0x81 | .dup3 => 0x82
  | .dup4 => 0x83 | .dup5 => 0x84 | .dup6 => 0x85 | .dup7 => 0x86 | .dup8 => 0x87 | .dup9 => 0x88
  | .dup10 => 0x89 | .dup11 => 0x8A | .dup12 => 0x8B | .dup13 => 0x8C | .dup14 => 0x8D
  | .dup15 => 0x8E | .dup16 => 0x8F | .swap1 => 0x90 | .swap2 => 0x91 | .swap3 => 0x92
  | .swap4 => 0x93 | .swap5 => 0x94 | .swap6 => 0x95 | .swap7 => 0x96 | .swap8 => 0x97
  | .swap9 => 0x98 | .swap10 => 0x99 | .swap11 => 0x9A | .swap12 => 0x9B | .swap13 => 0x9C
  | .swap14 => 0x9D | .swap15 => 0x9E | .swap16 => 0x9F | .ret => 0xF3 | .revert => 0xFD
  | .invalid => 0xFE

/-- How many immediate bytes follow an opcode byte: `op - 0x5F` for 0x60 to 0x7F, else none (R102). -/
def immediateBytes (op : Byte) : Nat :=
  if 0x60 ≤ op.toNat ∧ op.toNat ≤ 0x7F then op.toNat - 0x5F else 0

/-! ### The opcode map as rows -/

/-- One row of the opcode map: the opcode byte, the number of immediate bytes, and the instruction
the immediate makes. -/
structure OpRow where
  op : Nat
  imm : Nat
  make : Word → Instr

/-- 0x00 to 0x0B. -/
def arithmeticRows : List OpRow :=
  [⟨0x00, 0, fun _ => .stop⟩, ⟨0x01, 0, fun _ => .add⟩, ⟨0x02, 0, fun _ => .mul⟩,
   ⟨0x03, 0, fun _ => .sub⟩, ⟨0x04, 0, fun _ => .div⟩, ⟨0x05, 0, fun _ => .sdiv⟩,
   ⟨0x06, 0, fun _ => .mod⟩, ⟨0x07, 0, fun _ => .smod⟩, ⟨0x08, 0, fun _ => .addmod⟩,
   ⟨0x09, 0, fun _ => .mulmod⟩, ⟨0x0A, 0, fun _ => .exp⟩, ⟨0x0B, 0, fun _ => .signextend⟩]

/-- 0x10 to 0x1D. -/
def compareRows : List OpRow :=
  [⟨0x10, 0, fun _ => .lt⟩, ⟨0x11, 0, fun _ => .gt⟩, ⟨0x12, 0, fun _ => .slt⟩,
   ⟨0x13, 0, fun _ => .sgt⟩, ⟨0x14, 0, fun _ => .eq⟩, ⟨0x15, 0, fun _ => .iszero⟩,
   ⟨0x16, 0, fun _ => .and⟩, ⟨0x17, 0, fun _ => .or⟩, ⟨0x18, 0, fun _ => .xor⟩,
   ⟨0x19, 0, fun _ => .not⟩, ⟨0x1A, 0, fun _ => .byte⟩, ⟨0x1B, 0, fun _ => .shl⟩,
   ⟨0x1C, 0, fun _ => .shr⟩, ⟨0x1D, 0, fun _ => .sar⟩]

/-- 0x50 to 0x5B. -/
def machineRows : List OpRow :=
  [⟨0x50, 0, fun _ => .pop⟩, ⟨0x51, 0, fun _ => .mload⟩, ⟨0x52, 0, fun _ => .mstore⟩,
   ⟨0x53, 0, fun _ => .mstore8⟩, ⟨0x54, 0, fun _ => .sload⟩, ⟨0x55, 0, fun _ => .sstore⟩,
   ⟨0x56, 0, fun _ => .jump⟩, ⟨0x57, 0, fun _ => .jumpi⟩, ⟨0x58, 0, fun _ => .pc⟩,
   ⟨0x59, 0, fun _ => .msize⟩, ⟨0x5A, 0, fun _ => .gas⟩, ⟨0x5B, 0, fun _ => .jumpdest⟩]

/-- 0x60 to 0x6F: PUSH1 to PUSH16. -/
def pushRowsLow : List OpRow :=
  [⟨0x60, 1, .push1⟩, ⟨0x61, 2, .push2⟩, ⟨0x62, 3, .push3⟩, ⟨0x63, 4, .push4⟩, ⟨0x64, 5, .push5⟩,
   ⟨0x65, 6, .push6⟩, ⟨0x66, 7, .push7⟩, ⟨0x67, 8, .push8⟩, ⟨0x68, 9, .push9⟩,
   ⟨0x69, 10, .push10⟩, ⟨0x6A, 11, .push11⟩, ⟨0x6B, 12, .push12⟩, ⟨0x6C, 13, .push13⟩,
   ⟨0x6D, 14, .push14⟩, ⟨0x6E, 15, .push15⟩, ⟨0x6F, 16, .push16⟩]

/-- 0x70 to 0x7F: PUSH17 to PUSH32. -/
def pushRowsHigh : List OpRow :=
  [⟨0x70, 17, .push17⟩, ⟨0x71, 18, .push18⟩, ⟨0x72, 19, .push19⟩, ⟨0x73, 20, .push20⟩,
   ⟨0x74, 21, .push21⟩, ⟨0x75, 22, .push22⟩, ⟨0x76, 23, .push23⟩, ⟨0x77, 24, .push24⟩,
   ⟨0x78, 25, .push25⟩, ⟨0x79, 26, .push26⟩, ⟨0x7A, 27, .push27⟩, ⟨0x7B, 28, .push28⟩,
   ⟨0x7C, 29, .push29⟩, ⟨0x7D, 30, .push30⟩, ⟨0x7E, 31, .push31⟩, ⟨0x7F, 32, .push32⟩]

/-- 0x80 to 0x8F. -/
def dupRows : List OpRow :=
  [⟨0x80, 0, fun _ => .dup1⟩, ⟨0x81, 0, fun _ => .dup2⟩, ⟨0x82, 0, fun _ => .dup3⟩,
   ⟨0x83, 0, fun _ => .dup4⟩, ⟨0x84, 0, fun _ => .dup5⟩, ⟨0x85, 0, fun _ => .dup6⟩,
   ⟨0x86, 0, fun _ => .dup7⟩, ⟨0x87, 0, fun _ => .dup8⟩, ⟨0x88, 0, fun _ => .dup9⟩,
   ⟨0x89, 0, fun _ => .dup10⟩, ⟨0x8A, 0, fun _ => .dup11⟩, ⟨0x8B, 0, fun _ => .dup12⟩,
   ⟨0x8C, 0, fun _ => .dup13⟩, ⟨0x8D, 0, fun _ => .dup14⟩, ⟨0x8E, 0, fun _ => .dup15⟩,
   ⟨0x8F, 0, fun _ => .dup16⟩]

/-- 0x90 to 0x9F. -/
def swapRows : List OpRow :=
  [⟨0x90, 0, fun _ => .swap1⟩, ⟨0x91, 0, fun _ => .swap2⟩, ⟨0x92, 0, fun _ => .swap3⟩,
   ⟨0x93, 0, fun _ => .swap4⟩, ⟨0x94, 0, fun _ => .swap5⟩, ⟨0x95, 0, fun _ => .swap6⟩,
   ⟨0x96, 0, fun _ => .swap7⟩, ⟨0x97, 0, fun _ => .swap8⟩, ⟨0x98, 0, fun _ => .swap9⟩,
   ⟨0x99, 0, fun _ => .swap10⟩, ⟨0x9A, 0, fun _ => .swap11⟩, ⟨0x9B, 0, fun _ => .swap12⟩,
   ⟨0x9C, 0, fun _ => .swap13⟩, ⟨0x9D, 0, fun _ => .swap14⟩, ⟨0x9E, 0, fun _ => .swap15⟩,
   ⟨0x9F, 0, fun _ => .swap16⟩]

/-- 0xF3, 0xFD and 0xFE. -/
def haltRows : List OpRow :=
  [⟨0xF3, 0, fun _ => .ret⟩, ⟨0xFD, 0, fun _ => .revert⟩, ⟨0xFE, 0, fun _ => .invalid⟩]

/-- The 105 rows of the opcode map (R106). -/
def opRows : List OpRow :=
  arithmeticRows ++ compareRows ++ machineRows ++ pushRowsLow ++ pushRowsHigh ++ dupRows ++
    swapRows ++ haltRows

/-- The 44 refused bytes (R108): opcodes of collaborators outside THE BLOCK. -/
def refusedBytes : List Nat :=
  [0x20, 0x30, 0x31, 0x32, 0x33, 0x34, 0x35, 0x36, 0x37, 0x38, 0x39, 0x3A, 0x3B, 0x3C, 0x3D, 0x3E,
   0x3F, 0x40, 0x41, 0x42, 0x43, 0x44, 0x45, 0x46, 0x47, 0x48, 0x49, 0x4A, 0x5C, 0x5D, 0x5E, 0x5F] ++
  [0xA0, 0xA1, 0xA2, 0xA3, 0xA4, 0xF0, 0xF1, 0xF2, 0xF4, 0xF5, 0xFA, 0xFF]

/-- What the decoder reads from the code at the pc. -/
inductive Decoded where
  /-- A core opcode with its immediate (R106). -/
  | instr (i : Instr)
  /-- One of the 107 unassigned bytes: the invalid descriptor (R107, R141; log 8). -/
  | unassigned (op : Byte)
  /-- One of the 44 refused bytes: no descriptor (R108, R142). -/
  | refused (op : Byte)
  /-- No byte is left: the pc is at the end of code (R61, R151). -/
  | endOfCode
  deriving DecidableEq, Repr

/-- The decoder, total on any bytes (R110): the class of the first byte, and for PUSHn the immediate
in the bytes after it. -/
def decode : List Byte → Decoded
  | [] => .endOfCode
  | op :: rest =>
    match opRows.find? (fun r => r.op == op.toNat) with
    | some r => .instr (r.make (readImmediate r.imm rest))
    | none => if refusedBytes.contains op.toNat then .refused op else .unassigned op

/-- The encoding of an instruction: its opcode byte, then its immediate bytes, most significant
first (R100, R101, R103). -/
def encode (i : Instr) : List Byte :=
  opcode i :: beBytes i.immediate.1 i.immediate.2.toNat

/-! ### The host's numbering of an opcode-table word -/

/-- The longest instruction, PUSH32, has 33 bytes (R100). -/
def longestInstr : Nat := 33

/-- An instruction whose bits are `w`, bit 0 the least significant bit of its first byte, as bytes in
code order; every bit from `nbits` up is 0. -/
def tableBytes (nbits w : Nat) : List Byte :=
  (List.range longestInstr).map fun k => BitVec.ofNat 8 ((w % 2 ^ nbits) >>> (8 * k))

/-- The instruction the decoder reads from an opcode-table word, or none where it refuses. -/
def decodeTableWord (nbits w : Nat) : Option Instr :=
  match decode (tableBytes nbits w) with
  | .instr i => some i
  | .unassigned _ | .refused _ | .endOfCode => none

end Sys2Proof
end

