-- ==== Sys2Proof/Config.lean ====
section
/-! DEFINITION. What an implementation fixes: the open parameters of spec/00_scope.md R8 as plain
data, and the free values, constants with no body that nothing can evaluate. -/

namespace Sys2Proof

/-! ### Free values -/

/-- By how much MEM_COST grows from `n` words to `n + 1`, where the cost function is left open
(R9, R67; log 3). -/
opaque Config.memCostIncrement : Nat → Nat

/-- The storage port's cost answer at draw number `n`, less 1 (R9, R382, R383: at least 1; log 4). -/
opaque Config.portCost : Nat → Nat

/-- The storage port's value answer at draw number `n` (R80; log 4). -/
opaque Config.portValue : Nat → Word

/-- What MSIZE pushes when `msize` does not fit in a word (log 9). -/
opaque Config.wideMsize : Nat → Word

/-! ### The open parameters (R8) -/

/-- MEM_COST, a cost function of a length in words (R67). -/
inductive MemCost where
  /-- `linear * a + floor(a * a / divisor)`; the default of R8 has 3 and 512. -/
  | quadratic (linear divisor : Nat)
  /-- Any function that R9 admits: 0 at 0, then the free increments of Config (log 3). -/
  | free
  deriving DecidableEq, Repr

/-- SSTORE_KEY_FROM: which SSTORE operand is the key, `S[1]` or `S[0]` (R383). -/
inductive KeyFrom where
  | second
  | top
  deriving DecidableEq, Repr

/-- The parameters the source leaves to the implementation (R8), fixed for an execution (log 1).
SLOAD_COST and SSTORE_COST are answers of the storage port, not parameters here (log 4). -/
structure Params where
  /-- MEM_MAX, in bytes. -/
  memMax : Nat
  /-- CODE_MAX, in bytes. -/
  codeMax : Nat
  /-- GAS_SCHEDULE, the base cost of each opcode byte in order. -/
  gasSchedule : List Nat
  /-- MEM_COST. -/
  memCost : MemCost
  /-- EXP_BYTE_COST. -/
  expByteCost : Nat
  /-- JUMPI_CHECK_UNTAKEN. -/
  jumpiCheckUntaken : Bool
  /-- SSTORE_KEY_FROM. -/
  sstoreKeyFrom : KeyFrom
  deriving DecidableEq, Repr

end Sys2Proof
end

