-- ==== Sys2Proof/Machine/Defaults.lean ====
section
/-! DEFINITION. The default of every open parameter (spec/00_scope.md R8, spec/40_execution_loop.md
R146). -/

namespace Sys2Proof.Machine

/-- The default GAS_SCHEDULE: the base cost of each opcode byte, 16 bytes a line (R146). A byte that
is unassigned or refused has the entry 0; no step reads it (R141, R142). -/
def defaultGasSchedule : List Nat :=
  [
   -- 0x00
   0, 3, 5, 3, 5, 5, 5, 5, 8, 8, 10, 5, 0, 0, 0, 0,
   -- 0x10
   3, 3, 3, 3, 3, 3, 3, 3, 3, 3, 3, 3, 3, 3, 0, 0,
   -- 0x20
   0, 0, 0, 0, 0, 0, 0, 0, 0, 0, 0, 0, 0, 0, 0, 0,
   -- 0x30
   0, 0, 0, 0, 0, 0, 0, 0, 0, 0, 0, 0, 0, 0, 0, 0,
   -- 0x40
   0, 0, 0, 0, 0, 0, 0, 0, 0, 0, 0, 0, 0, 0, 0, 0,
   -- 0x50
   2, 3, 3, 3, 0, 0, 8, 10, 2, 2, 2, 1, 0, 0, 0, 0,
   -- 0x60
   3, 3, 3, 3, 3, 3, 3, 3, 3, 3, 3, 3, 3, 3, 3, 3,
   -- 0x70
   3, 3, 3, 3, 3, 3, 3, 3, 3, 3, 3, 3, 3, 3, 3, 3,
   -- 0x80
   3, 3, 3, 3, 3, 3, 3, 3, 3, 3, 3, 3, 3, 3, 3, 3,
   -- 0x90
   3, 3, 3, 3, 3, 3, 3, 3, 3, 3, 3, 3, 3, 3, 3, 3,
   -- 0xA0
   0, 0, 0, 0, 0, 0, 0, 0, 0, 0, 0, 0, 0, 0, 0, 0,
   -- 0xB0
   0, 0, 0, 0, 0, 0, 0, 0, 0, 0, 0, 0, 0, 0, 0, 0,
   -- 0xC0
   0, 0, 0, 0, 0, 0, 0, 0, 0, 0, 0, 0, 0, 0, 0, 0,
   -- 0xD0
   0, 0, 0, 0, 0, 0, 0, 0, 0, 0, 0, 0, 0, 0, 0, 0,
   -- 0xE0
   0, 0, 0, 0, 0, 0, 0, 0, 0, 0, 0, 0, 0, 0, 0, 0,
   -- 0xF0
   0, 0, 0, 0, 0, 0, 0, 0, 0, 0, 0, 0, 0, 0, 0, 0]

/-- The default of every parameter of R8. -/
def defaultParams : Params where
  memMax := 2 ^ 32
  codeMax := 2 ^ 32 - 1
  gasSchedule := defaultGasSchedule
  memCost := .quadratic 3 512
  expByteCost := 50
  jumpiCheckUntaken := false
  sstoreKeyFrom := .second

end Sys2Proof.Machine
end

