-- ==== Sys2Proof/Machine/State.lean ====
section
/-! DEFINITION. The state of THE BLOCK (spec/10_state.md) as plain data, the reasons a step can stop,
and the state after reset (R50). -/

namespace Sys2Proof.Machine

/-- Data memory as (address, byte) cells: addresses strictly rising, no cell holding 0, which is what
an unlisted address reads as (spec/20_memory.md R65). -/
abbrev Memory := List Host.Cell

/-- One transaction of the storage port (R80, R81), as R168 observes it. -/
inductive PortTransaction where
  /-- `StorageRead(key)`, answered with `value`. -/
  | read (key value : Word)
  /-- `StorageWrite(key, value)`. -/
  | write (key value : Word)
  deriving DecidableEq, Repr

/-- The nine outcomes of an execution (spec/60_exceptions.md R441). -/
inductive OutcomeKind where
  | stop | ret | revert | outOfGas | invalidOpcode | stackUnderflow | stackOverflow
  | invalidJumpDestination | memoryLimitExceeded
  deriving DecidableEq, Repr

/-- The state of one execution: the open parameters, the Program (R40, R41), the CallFrame (R30), what
was sent on the storage port (R168), and the port's answers to come (log 4). -/
structure State where
  /-- The open parameters; nothing writes them (R8; log 1). -/
  params : Params
  /-- The bytecode; nothing writes it (R40). -/
  code : List Byte
  /-- The Jump Destination Set, strictly rising; nothing writes it after it is built (R41). -/
  jd : List Nat
  /-- `input_data`; no instruction reads it (R42). -/
  inputData : List Byte
  /-- Bit 0 HALTED, bits 4:1 CODE, bits 7:5 reserved (R38). -/
  status : BitVec 8
  /-- The program counter (R33). -/
  pc : BitVec 32
  /-- The operand stack S, top first; `depth` is its length (R32). -/
  stack : List Word
  /-- Data memory (R37). -/
  mem : Memory
  /-- The length of data memory in bytes (R36; log 9). -/
  msize : Nat
  /-- The gas counter (R35). -/
  gas : BitVec 64
  /-- The return-data buffer (R39). -/
  rdata : List Byte
  /-- The storage-port transactions issued, oldest first (R168; log 5). -/
  portLog : List PortTransaction
  /-- The model's own: the port's cost answers still to come (log 4). -/
  portCosts : List Nat
  /-- The model's own: the port's read answers still to come (log 4). -/
  portValues : List Word
  /-- The model's own: how many answers were drawn from the free values of Config (log 4). -/
  portDraws : Nat
  deriving DecidableEq, Repr

/-- Why no step is taken. THE BLOCK's own faults are no such reason: a fault outcome of R441 is a next
state whose status says so. -/
inductive Fault where
  /-- Raised by `step` when HALTED = 1: no further step occurs (R149; log 6). Safe. -/
  | alreadyHalted
  deriving DecidableEq, Repr

/-- Why the model gives no outcome. -/
inductive Refusal where
  /-- Raised by an arm of `exec` whose instruction has no meaning yet. Safe. -/
  | notModelled (mnemonic : String)
  /-- Raised by `step` on one of the 44 refused bytes: the refusal mark of R157 (log 7). Safe. -/
  | refusedByte (op : Byte)
  /-- Raised by `startExecution` on a code longer than CODE_MAX, which is not admitted at start
  (R45, R483). Safe. -/
  | codeTooLong
  /-- Raised by `runToHalt`, and so by `execute`, on an execution that has not halted within its bound of
  steps, which parameters that meet R9 rule out (R159; log 14). Safe. -/
  | stepBoundSpent
  deriving DecidableEq, Repr

/-- The machine right after reset (R50, R480), with the default parameters and no program presented:
empty code and input, and the largest gas budget that GAS_BITS admits (log 2). -/
def State.reset : State where
  params := defaultParams
  code := []
  jd := []
  inputData := []
  status := 0
  pc := 0
  stack := []
  mem := []
  msize := 0
  gas := BitVec.allOnes 64
  rdata := []
  portLog := []
  portCosts := []
  portValues := []
  portDraws := 0

end Sys2Proof.Machine
end

