-- ==== Sys2Proof/Machine/Ops.lean ====
section
/-! DEFINITION. The named operations over the state that every meaning is written with: the status
and the end of an execution (R160, R161), the gas meter (R152), data memory and its growth
(spec/20_memory.md), the code space, the pc, and the storage port. -/

namespace Sys2Proof.Machine

/-- What one step, or one instruction, answers. -/
abbrev Result := Host.Outcome State Fault Refusal

/-! ### Outcomes and status (R38, R441) -/

/-- The outcome code of `status.CODE` (R441). -/
def outcomeCode : OutcomeKind → BitVec 4
  | .stop => 0
  | .ret => 1
  | .revert => 2
  | .outOfGas => 3
  | .invalidOpcode => 4
  | .stackUnderflow => 5
  | .stackOverflow => 6
  | .invalidJumpDestination => 7
  | .memoryLimitExceeded => 8

/-- The outcomes that are faults: codes 3 to 8 (R441). -/
def isFault : OutcomeKind → Bool
  | .stop | .ret | .revert => false
  | .outOfGas | .invalidOpcode | .stackUnderflow | .stackOverflow | .invalidJumpDestination
  | .memoryLimitExceeded => true

/-- `status` while Running: HALTED 0, CODE 0, reserved 0 (R38, R50). -/
def runningStatus : BitVec 8 := 0

/-- `status` once halted with outcome `k`: HALTED 1, CODE, and the reserved bits, which read as 0
(R38; log 10). -/
def haltedStatus (k : OutcomeKind) : BitVec 8 := (0#3 ++ outcomeCode k) ++ 1#1

/-- `status.HALTED` (R38). -/
def State.halted (s : State) : Bool := s.status.getLsbD 0

/-- `status.CODE` (R38). -/
def State.outcome (s : State) : BitVec 4 := s.status.extractLsb' 1 4

/-- The state at the end of an execution: `status` and `rdata` are written, nothing else
(R160, R161). -/
def State.finish (s : State) (k : OutcomeKind) (data : List Byte) : State :=
  { s with status := haltedStatus k, rdata := data }

/-- `raise X` (R160): taking a fault. `status` says so, `rdata` is empty, and nothing else changes:
the pc, stack and memory stay as they were before the instruction, and `s` has the gas left after
the charges that succeeded. There is no vector, saved register or mode (R440, R447). -/
def raise (x : OutcomeKind) (s : State) : Result := .next (s.finish x [])

/-- `halt K(data)` (R161): the execution ends with outcome `k` and return data; the pc stays. There is
no return from a halt (R448). -/
def halt (k : OutcomeKind) (data : List Byte) (s : State) : Result := .next (s.finish k data)

/-! ### The gas meter (R152) -/

/-- `gas` less `amount`. -/
def State.spend (s : State) (amount : Nat) : State :=
  { s with gas := s.gas - BitVec.ofNat 64 amount }

/-- `Charge(amount)`, then `k` (R152): OutOfGas if `amount` exceeds the gas left, compared as unbounded
integers; a failed charge takes nothing. -/
def charge (amount : Nat) (s : State) (k : State → Result) : Result :=
  if s.gas.toNat < amount then raise .outOfGas s else k (s.spend amount)

/-- The base cost of an opcode byte in GAS_SCHEDULE (R146). -/
def State.baseGas (s : State) (op : Byte) : Nat := s.params.gasSchedule.getD op.toNat 0

/-! ### Data memory (R37, R62, R70) -/

/-- The byte at an address; an unlisted byte is 0 (R65; log 13). -/
def Memory.read : Memory → Nat → Byte
  | [], _ => 0
  | (k, v) :: m, a => if k = a then v else Memory.read m a

/-- Write one byte, keeping the canonical form: a byte written 0 is not listed. -/
def Memory.write : Memory → Nat → Byte → Memory
  | [], a, b => if b = 0 then [] else [(a, b)]
  | (k, v) :: m, a, b =>
    if a < k then (if b = 0 then (k, v) :: m else (a, b) :: (k, v) :: m)
    else if a = k then (if b = 0 then m else (a, b) :: m)
    else (k, v) :: Memory.write m a b

/-- The canonical form: addresses strictly rising, no byte 0 listed. -/
abbrev Memory.wf (m : Memory) : Prop :=
  m.Pairwise (fun c d => c.1 < d.1) ∧ ∀ c ∈ m, c.2 ≠ 0

/-- `MemRead(addr, n)` (R14): the `n` bytes from `addr`, lowest address first. -/
def Memory.readBytes (m : Memory) (addr n : Nat) : List Byte :=
  (List.range n).map fun k => Memory.read m (addr + k)

/-- `MemWrite(addr, n, bytes)` (R14): the bytes from `addr` up, first at the lowest address. -/
def Memory.writeBytes : Memory → Nat → List Byte → Memory
  | m, _, [] => m
  | m, addr, b :: rest => Memory.writeBytes (Memory.write m addr b) (addr + 1) rest

/-- `mem[lo .. hi-1] <- 0` (R66). -/
def Memory.zeroRange (m : Memory) (lo hi : Nat) : Memory :=
  m.filter fun c => c.1 < lo || hi ≤ c.1

/-- Memory with `bytes` written from `addr` up. -/
def State.writeMem (s : State) (addr : Nat) (bytes : List Byte) : State :=
  { s with mem := Memory.writeBytes s.mem addr bytes }

/-- The word at a memory offset, big-endian (R70). -/
def State.memWord (s : State) (addr : Nat) : Word := u256 (beNat (Memory.readBytes s.mem addr 32))

/-- `be32(v)`: the 32 bytes of a word, most significant first (R70). -/
def wordBytes (v : Word) : List Byte := beBytes 32 v.toNat

/-! ### Growth (R63, R66, R67) -/

/-- `ceil32(n)` (R10). -/
def ceil32 (n : Nat) : Nat := (n + 31) / 32 * 32

/-- The free cost function of `n` words: 0 at 0, then the free increments (R9; log 3). -/
def freeMemCost : Nat → Nat
  | 0 => 0
  | n + 1 => freeMemCost n + Config.memCostIncrement n

/-- `MEM_COST(a)` of a length of `a` words (R67). -/
def memCostOf : MemCost → Nat → Nat
  | .quadratic linear divisor, a => linear * a + a * a / divisor
  | .free, a => freeMemCost a

/-- The expansion charge from the current length to `new` bytes (R67). -/
def State.expansionCost (s : State) (new : Nat) : Nat :=
  memCostOf s.params.memCost (new / 32) - memCostOf s.params.memCost (s.msize / 32)

/-- Memory grown to `new` bytes, the added ones 0 (R65, R66). -/
def State.grow (s : State) (new : Nat) : State :=
  { s with mem := Memory.zeroRange s.mem s.msize new, msize := new }

/-- `Expand(offset, size)`, then `k` (R66): nothing for an empty range (R69), the ceiling first (R68),
then the expansion charge (R67), then the growth. -/
def expand (offset size : Nat) (s : State) (k : State → Result) : Result :=
  if size = 0 then k s
  else if s.params.memMax < offset + size then raise .memoryLimitExceeded s
  else if s.msize < ceil32 (offset + size) then
    charge (s.expansionCost (ceil32 (offset + size))) s
      fun s' => k (s'.grow (ceil32 (offset + size)))
  else k s

/-! ### Code and the pc (R33, R40, R61) -/

/-- `CodeByte(i)`: byte `i` of the code, 0 past its end (R14, R61). -/
def State.codeByte (s : State) (i : Nat) : Byte := s.code.getD i 0

/-- The bytes a fetch at the pc sees: the code from the pc on (R61, R101). -/
def State.fetchBytes (s : State) : List Byte := s.code.drop s.pc.toNat

/-- `pc <- target` (R15; log 11). -/
def State.setPc (s : State) (target : Nat) : State := { s with pc := BitVec.ofNat 32 target }

/-- The default advance past an instruction of `n` bytes: `pc <- min(pc + n, len(code))` (R155). -/
def State.advance (s : State) (n : Nat) : State := s.setPc (min (s.pc.toNat + n) s.code.length)

/-- The operand stack replaced. -/
def State.setStack (s : State) (stack : List Word) : State := { s with stack := stack }

/-! ### The jump-destination set (R41, R163) -/

/-- The scan of R163 from offset `i` with `skip` push-immediate bytes still to pass over: the offsets
of the JUMPDEST markers outside push data, rising. -/
def scanJumpDests : List Byte → (i skip : Nat) → List Nat
  | [], _, _ => []
  | b :: rest, i, 0 =>
    if b = 0x5B then i :: scanJumpDests rest (i + 1) 0
    else scanJumpDests rest (i + 1) (immediateBytes b)
  | _ :: rest, i, skip + 1 => scanJumpDests rest (i + 1) skip

/-- `BuildJD(code)` (R163). -/
def buildJD (code : List Byte) : List Nat := scanJumpDests code 0 0

/-! ### The storage port (R80-R82; log 4)

Each answer is the next one given in State; once those are used up it is a free value, a new one for
each draw. -/

/-- The port's answer to a cost query (R382, R383). -/
def State.portCost (s : State) : Nat :=
  match s.portCosts with
  | c :: _ => c
  | [] => Config.portCost s.portDraws + 1

/-- The state once a cost answer is taken. -/
def State.takeCost (s : State) : State :=
  match s.portCosts with
  | _ :: rest => { s with portCosts := rest }
  | [] => { s with portDraws := s.portDraws + 1 }

/-- The port's answer to a `StorageRead` (R80). -/
def State.portValue (s : State) : Word :=
  match s.portValues with
  | v :: _ => v
  | [] => Config.portValue s.portDraws

/-- The state once a read answer is taken. -/
def State.takeValue (s : State) : State :=
  match s.portValues with
  | _ :: rest => { s with portValues := rest }
  | [] => { s with portDraws := s.portDraws + 1 }

/-- One more transaction issued on the port, in program order (R82, R168). -/
def State.logPort (s : State) (t : PortTransaction) : State :=
  { s with portLog := s.portLog ++ [t] }

/-! ### Placing code where a step fetches (the host's loader; log 2) -/

/-- `bytes` written over the code from offset `at'` on, the code padded with zeros up to there. -/
def placeBytes (code : List Byte) (at' : Nat) (bytes : List Byte) : List Byte :=
  takeZeroFilled at' code ++ bytes ++ code.drop (at' + bytes.length)

/-- The state with `bytes` placed at the pc, the Jump Destination Set built for the new code, and the
execution Running, so that the next step fetches them (log 2). -/
def State.placeCode (s : State) (bytes : List Byte) : State :=
  let code := placeBytes s.code s.pc.toNat bytes
  { s with
    code := code
    jd := buildJD code
    status := if s.halted then runningStatus else s.status
    rdata := if s.halted then [] else s.rdata }

end Sys2Proof.Machine
end

