-- ==== Sys2Proof/Machine/Flags.lean ====
section
/-! DEFINITION. THE BLOCK has no flags (spec/10_state.md R34): a comparison leaves its result as a
word on the stack, and a conditional jump tests a stack word. This file holds those two. -/

namespace Sys2Proof.Machine

/-- The word a comparison pushes: 1 when it holds, else 0 (R230). -/
def boolWord (holds : Bool) : Word := if holds then 1 else 0

/-- Whether a condition word takes the jump: any non-zero word (R402). -/
def conditionHolds (c : Word) : Bool := c ≠ 0

end Sys2Proof.Machine
end

