-- ==== Sys2Proof/Machine/Operands.lean ====
section
/-! DEFINITION. The operand forms of THE BLOCK: operands are the top words of the stack
(spec/00_scope.md R13, spec/10_state.md R31) or the immediate of PUSHn. The descriptor of each
instruction, and the checks every instruction makes before its handler
(spec/40_execution_loop.md R140-R145, R150). -/

namespace Sys2Proof.Machine

/-- STACK_CAP (R7). -/
def stackCap : Nat := 1024

/-- `depth`, the number of words on the stack (R13, R32). -/
def State.depth (s : State) : Nat := s.stack.length

/-- `S[i]`, the word `i` places below the top (R13). No instruction reads one with `i >= depth` (R32). -/
def State.S (s : State) (i : Nat) : Word := s.stack.getD i 0

/-- `drop k; push v` (R13). -/
def State.dropPush (s : State) (k : Nat) (v : Word) : State := s.setStack (v :: s.stack.drop k)

/-- `drop k` (R13). -/
def State.drop (s : State) (k : Nat) : State := s.setStack (s.stack.drop k)

/-- The exchange of `S[0]` and `S[k]` (R312). -/
def State.swap (s : State) (k : Nat) : State :=
  s.setStack ((s.stack.set 0 (s.S k)).set k (s.S 0))

/-- `minStackRequired` and `stackDelta` of each instruction (R145). -/
def stackColumns : Instr → Nat × Int
  | .stop | .jumpdest | .invalid => (0, 0)
  | .pc | .msize | .gas | .push1 _ | .push2 _ | .push3 _ | .push4 _ | .push5 _ | .push6 _
  | .push7 _ | .push8 _ | .push9 _ | .push10 _ | .push11 _ | .push12 _ | .push13 _ | .push14 _
  | .push15 _ | .push16 _ | .push17 _ | .push18 _ | .push19 _ | .push20 _ | .push21 _ | .push22 _
  | .push23 _ | .push24 _ | .push25 _ | .push26 _ | .push27 _ | .push28 _ | .push29 _ | .push30 _
  | .push31 _ | .push32 _ => (0, 1)
  | .pop | .jump => (1, -1)
  | .iszero | .not | .mload | .sload => (1, 0)
  | .dup1 => (1, 1)
  | .mstore | .mstore8 | .sstore | .jumpi | .ret | .revert => (2, -2)
  | .add | .mul | .sub | .div | .sdiv | .mod | .smod | .exp | .signextend | .lt | .gt | .slt
  | .sgt | .eq | .and | .or | .xor | .byte | .shl | .shr | .sar => (2, -1)
  | .swap1 => (2, 0)
  | .dup2 => (2, 1)
  | .addmod | .mulmod => (3, -2)
  | .swap2 => (3, 0)
  | .dup3 => (3, 1)
  | .swap3 => (4, 0)
  | .dup4 => (4, 1)
  | .swap4 => (5, 0)
  | .dup5 => (5, 1)
  | .swap5 => (6, 0)
  | .dup6 => (6, 1)
  | .swap6 => (7, 0)
  | .dup7 => (7, 1)
  | .swap7 => (8, 0)
  | .dup8 => (8, 1)
  | .swap8 => (9, 0)
  | .dup9 => (9, 1)
  | .swap9 => (10, 0)
  | .dup10 => (10, 1)
  | .swap10 => (11, 0)
  | .dup11 => (11, 1)
  | .swap11 => (12, 0)
  | .dup12 => (12, 1)
  | .swap12 => (13, 0)
  | .dup13 => (13, 1)
  | .swap13 => (14, 0)
  | .dup14 => (14, 1)
  | .swap14 => (15, 0)
  | .dup15 => (15, 1)
  | .swap15 => (16, 0)
  | .dup16 => (16, 1)
  | .swap16 => (17, 0)

/-- The checks of R150 before the handler of an instruction, in the order of R162: the base charge
(R153), then underflow (R143), then overflow (R144). -/
def dispatch (i : Instr) (s : State) (handler : State → Result) : Result :=
  charge (s.baseGas (opcode i)) s fun s' =>
    if s'.depth < (stackColumns i).1 then raise .stackUnderflow s'
    else if (stackCap : Int) < s'.depth + (stackColumns i).2 then raise .stackOverflow s'
    else handler s'

/-- An instruction that computes one word from the top `n` words and pushes it in their place, then
advances past itself (R155). -/
def computeWord (i : Instr) (n : Nat) (f : State → Word) (s : State) : Result :=
  dispatch i s fun s' => .next ((s'.dropPush n (f s')).advance i.length)

/-- One operand, one result: `drop 1; push f(S[0])`. -/
def unaryOp (i : Instr) (f : Word → Word) (s : State) : Result :=
  computeWord i 1 (fun s' => f (s'.S 0)) s

/-- Two operands, one result: `drop 2; push f(S[0], S[1])`. -/
def binaryOp (i : Instr) (f : Word → Word → Word) (s : State) : Result :=
  computeWord i 2 (fun s' => f (s'.S 0) (s'.S 1)) s

/-- Three operands, one result: `drop 3; push f(S[0], S[1], S[2])`. -/
def ternaryOp (i : Instr) (f : Word → Word → Word → Word) (s : State) : Result :=
  computeWord i 3 (fun s' => f (s'.S 0) (s'.S 1) (s'.S 2)) s

/-- No operand, one result: `push f`. -/
def pushOp (i : Instr) (f : State → Word) (s : State) : Result := computeWord i 0 f s

end Sys2Proof.Machine
end

