-- ==== Sys2Proof/Machine/Arithmetic.lean ====
section
/-! DEFINITION. The arithmetic instructions (spec/41_arithmetic.md, opcodes 0x01 to 0x0B): the word
function of each, computed in exact integers and narrowed by `u256` (R212), and its meaning. -/

namespace Sys2Proof.Machine

/-! ### The word functions -/

/-- ADD (R201). -/
def wordAdd (a b : Word) : Word := u256 (a.toNat + b.toNat)

/-- MUL (R202). -/
def wordMul (a b : Word) : Word := u256 (a.toNat * b.toNat)

/-- SUB (R203): minuend first. -/
def wordSub (a b : Word) : Word := u256Int ((a.toNat : Int) - b.toNat)

/-- DIV (R204): 0 for a zero divisor. -/
def wordDiv (a b : Word) : Word := if b = 0 then 0 else u256 (a.toNat / b.toNat)

/-- SDIV (R205): truncated toward zero; `-2^255 / -1` wraps to `2^255`. -/
def wordSdiv (a b : Word) : Word := if b = 0 then 0 else u256Int ((signed a).tdiv (signed b))

/-- MOD (R206): 0 for a zero divisor. -/
def wordMod (a b : Word) : Word := if b = 0 then 0 else u256 (a.toNat % b.toNat)

/-- SMOD (R207): the remainder has the sign of the dividend. -/
def wordSmod (a b : Word) : Word := if b = 0 then 0 else u256Int ((signed a).tmod (signed b))

/-- ADDMOD (R208): the sum is exact. -/
def wordAddmod (a b n : Word) : Word :=
  if n = 0 then 0 else u256 ((a.toNat + b.toNat) % n.toNat)

/-- MULMOD (R209): the product is exact. -/
def wordMulmod (a b n : Word) : Word :=
  if n = 0 then 0 else u256 (a.toNat * b.toNat % n.toNat)

/-- `a ^ e mod 2^256` by repeated squaring, for an exponent of at most `bits` bits. -/
def powMod (a : Nat) : (bits e : Nat) → Nat
  | 0, _ => 1
  | bits + 1, e =>
    let half := powMod a bits (e / 2)
    if e % 2 = 1 then half * half % 2 ^ 256 * a % 2 ^ 256 else half * half % 2 ^ 256

/-- EXP (R210): `u256(a ^ b)`. -/
def wordExp (a b : Word) : Word := u256 (powMod a.toNat 256 b.toNat)

/-- `bytelen(b)`: the bytes of `b` without leading zero bytes (R210). -/
def byteLength (b : Word) : Nat := if b = 0 then 0 else Nat.log2 b.toNat / 8 + 1

/-- SIGNEXTEND (R211): bit `8*k + 7` copied into every bit above it, for `k < 31`. -/
def wordSignextend (k x : Word) : Word :=
  if k.toNat < 31 then
    let t := 8 * k.toNat + 7
    if x.getLsbD t then x ||| u256 (2 ^ 256 - 2 ^ (t + 1)) else x &&& u256 (2 ^ (t + 1) - 1)
  else x

/-! ### The meanings -/

/-- ADD (R201). -/
def execAdd (s : State) : Result := binaryOp .add wordAdd s

/-- MUL (R202). -/
def execMul (s : State) : Result := binaryOp .mul wordMul s

/-- SUB (R203). -/
def execSub (s : State) : Result := binaryOp .sub wordSub s

/-- DIV (R204). -/
def execDiv (s : State) : Result := binaryOp .div wordDiv s

/-- SDIV (R205). -/
def execSdiv (s : State) : Result := binaryOp .sdiv wordSdiv s

/-- MOD (R206). -/
def execMod (s : State) : Result := binaryOp .mod wordMod s

/-- SMOD (R207). -/
def execSmod (s : State) : Result := binaryOp .smod wordSmod s

/-- ADDMOD (R208). -/
def execAddmod (s : State) : Result := ternaryOp .addmod wordAddmod s

/-- MULMOD (R209). -/
def execMulmod (s : State) : Result := ternaryOp .mulmod wordMulmod s

/-- EXP (R210): the dynamic charge for the exponent's bytes comes before the result is written. -/
def execExp (s : State) : Result :=
  dispatch .exp s fun s' =>
    charge (s'.params.expByteCost * byteLength (s'.S 1)) s' fun s'' =>
      .next ((s''.dropPush 2 (wordExp (s''.S 0) (s''.S 1))).advance Instr.exp.length)

/-- SIGNEXTEND (R211). -/
def execSignextend (s : State) : Result := binaryOp .signextend wordSignextend s

end Sys2Proof.Machine
end

