-- ==== Sys2Proof/Machine/Compare.lean ====
section
/-! DEFINITION. The comparison, bitwise and shift instructions (spec/42_compare_bitwise.md, opcodes
0x10 to 0x1D). -/

namespace Sys2Proof.Machine

/-! ### The word functions -/

/-- BYTE (R241): byte `i` counted from the most significant, 0 for an index of 32 or more. -/
def wordByte (i x : Word) : Word :=
  if i.toNat < 32 then (x >>> (248 - 8 * i.toNat)) &&& 0xFF else 0

/-- SHL (R242): 0 for an amount of 256 or more. -/
def wordShl (n v : Word) : Word := if n.toNat < 256 then u256 (v.toNat * 2 ^ n.toNat) else 0

/-- SHR (R243): 0 for an amount of 256 or more. -/
def wordShr (n v : Word) : Word := if n.toNat < 256 then u256 (v.toNat / 2 ^ n.toNat) else 0

/-- SAR (R244): rounds toward minus infinity; all sign bits for an amount of 256 or more. -/
def wordSar (n v : Word) : Word :=
  if n.toNat < 256 then u256Int ((signed v).fdiv (2 ^ n.toNat))
  else if v.getLsbD 255 then BitVec.allOnes 256 else 0

/-! ### The meanings -/

/-- LT, unsigned (R231). -/
def execLt (s : State) : Result := binaryOp .lt (fun a b => boolWord (a.toNat < b.toNat)) s

/-- GT, unsigned (R232). -/
def execGt (s : State) : Result := binaryOp .gt (fun a b => boolWord (b.toNat < a.toNat)) s

/-- SLT, signed (R233). -/
def execSlt (s : State) : Result := binaryOp .slt (fun a b => boolWord (signed a < signed b)) s

/-- SGT, signed (R234). -/
def execSgt (s : State) : Result := binaryOp .sgt (fun a b => boolWord (signed b < signed a)) s

/-- EQ (R235). -/
def execEq (s : State) : Result := binaryOp .eq (fun a b => boolWord (a = b)) s

/-- ISZERO (R236). -/
def execIszero (s : State) : Result := unaryOp .iszero (fun a => boolWord (a = 0)) s

/-- AND (R237). -/
def execAnd (s : State) : Result := binaryOp .and (fun a b => a &&& b) s

/-- OR (R238). -/
def execOr (s : State) : Result := binaryOp .or (fun a b => a ||| b) s

/-- XOR (R239). -/
def execXor (s : State) : Result := binaryOp .xor (fun a b => a ^^^ b) s

/-- NOT (R240). -/
def execNot (s : State) : Result := unaryOp .not (fun a => ~~~a) s

/-- BYTE (R241). -/
def execByte (s : State) : Result := binaryOp .byte wordByte s

/-- SHL: the shift amount is on top (R242). -/
def execShl (s : State) : Result := binaryOp .shl wordShl s

/-- SHR: the shift amount is on top (R243). -/
def execShr (s : State) : Result := binaryOp .shr wordShr s

/-- SAR: the shift amount is on top (R244). -/
def execSar (s : State) : Result := binaryOp .sar wordSar s

end Sys2Proof.Machine
end

