-- ==== Sys2Proof/Machine/ControlFlow.lean ====
section
/-! DEFINITION. The control-flow instructions (spec/46_control_flow.md). A target is valid exactly when
it is in the Jump Destination Set (R165, R400). -/

namespace Sys2Proof.Machine

/-- Whether a jump target is in JD: a test on the whole 256-bit word (R165). -/
def State.validTarget (s : State) (t : Word) : Bool := s.jd.contains t.toNat

/-- A taken jump: the operands dropped and the pc set, with no default advance (R156). A jump to an
invalid target commits nothing (R160). -/
def jumpTo (t : Word) (operands : Nat) (s : State) : Result :=
  if s.validTarget t then .next ((s.drop operands).setPc t.toNat)
  else raise .invalidJumpDestination s

/-- JUMP (R401). -/
def execJump (s : State) : Result := dispatch .jump s fun s' => jumpTo (s'.S 0) 1 s'

/-- JUMPI (R402): not taken on a zero condition, and then the target is validated only if
JUMPI_CHECK_UNTAKEN says so. -/
def execJumpi (s : State) : Result :=
  dispatch .jumpi s fun s' =>
    if conditionHolds (s'.S 1) then jumpTo (s'.S 0) 2 s'
    else if s'.params.jumpiCheckUntaken && !s'.validTarget (s'.S 0) then
      raise .invalidJumpDestination s'
    else .next ((s'.drop 2).advance Instr.jumpi.length)

/-- JUMPDEST (R403): nothing but its charge and the default advance. -/
def execJumpdest (s : State) : Result :=
  dispatch .jumpdest s fun s' => .next (s'.advance Instr.jumpdest.length)

/-- PC (R404): the offset of this instruction's own opcode byte. -/
def execPc (s : State) : Result := pushOp .pc (fun s' => s'.pc.setWidth 256) s

end Sys2Proof.Machine
end

