-- ==== Sys2Proof/Machine/GasStorage.lean ====
section
/-! DEFINITION. The gas and storage-port instructions (spec/45_gas_storage.md). SLOAD and SSTORE get
their dynamic cost from the port, charge it, and only then issue their transaction (R380). -/

namespace Sys2Proof.Machine

/-- GAS (R381): the counter after this instruction's own base charge. -/
def execGas (s : State) : Result := pushOp .gas (fun s' => s'.gas.setWidth 256) s

/-- SLOAD (R382). -/
def execSload (s : State) : Result :=
  dispatch .sload s fun s' =>
    charge s'.portCost s' fun s'' =>
      let asked := s''.takeCost
      .next ((((asked.takeValue).logPort (.read (asked.S 0) asked.portValue)).dropPush 1
        asked.portValue).advance Instr.sload.length)

/-- The key and the value of SSTORE, as SSTORE_KEY_FROM chooses them (R383). -/
def State.sstoreOperands (s : State) : Word × Word :=
  match s.params.sstoreKeyFrom with
  | .second => (s.S 1, s.S 0)
  | .top => (s.S 0, s.S 1)

/-- SSTORE (R383). -/
def execSstore (s : State) : Result :=
  dispatch .sstore s fun s' =>
    charge s'.portCost s' fun s'' =>
      .next (((s''.takeCost.logPort (.write s''.sstoreOperands.1 s''.sstoreOperands.2)).drop 2).advance
        Instr.sstore.length)

end Sys2Proof.Machine
end

