-- ==== Sys2Proof/Machine/Halting.lean ====
section
/-! DEFINITION. The halting instructions (spec/47_halting.md), and the invalid handler that INVALID
shares with the unassigned bytes (R141). -/

namespace Sys2Proof.Machine

/-- STOP (R421). -/
def execStop (s : State) : Result := dispatch .stop s fun s' => halt .stop [] s'

/-- RETURN and REVERT (R422, R423): expand over the range, drop the operands, halt with the bytes. -/
def haltWithData (i : Instr) (k : OutcomeKind) (s : State) : Result :=
  dispatch i s fun s' =>
    expand (s'.S 0).toNat (s'.S 1).toNat s' fun s'' =>
      halt k (Memory.readBytes s''.mem (s''.S 0).toNat (s''.S 1).toNat) (s''.drop 2)

/-- RETURN (R422). -/
def execReturn (s : State) : Result := haltWithData .ret .ret s

/-- REVERT (R423). -/
def execRevert (s : State) : Result := haltWithData .revert .revert s

/-- The invalid descriptor's handler (R141): the base charge of INVALID, then InvalidOpcode. -/
def invalidOpcode (s : State) : Result := dispatch .invalid s fun s' => raise .invalidOpcode s'

/-- INVALID (R424). -/
def execInvalid (s : State) : Result := invalidOpcode s

/-- An unassigned byte: it behaves exactly like INVALID (R107, R424). -/
def execUnassigned (s : State) : Result := invalidOpcode s

/-- The implicit stop at the end of code: no charge, no byte read (R151). -/
def stopAtEndOfCode (s : State) : Result := halt .stop [] s

end Sys2Proof.Machine
end

