-- ==== Sys2Proof/Machine/MemoryOps.lean ====
section
/-! DEFINITION. The memory instructions (spec/44_memory_ops.md): each expands memory over its range
first, and only then reads or writes bytes (R360). -/

namespace Sys2Proof.Machine

/-- MLOAD (R361). -/
def execMload (s : State) : Result :=
  dispatch .mload s fun s' =>
    expand (s'.S 0).toNat 32 s' fun s'' =>
      .next ((s''.dropPush 1 (s''.memWord (s''.S 0).toNat)).advance Instr.mload.length)

/-- MSTORE (R362). -/
def execMstore (s : State) : Result :=
  dispatch .mstore s fun s' =>
    expand (s'.S 0).toNat 32 s' fun s'' =>
      .next (((s''.writeMem (s''.S 0).toNat (wordBytes (s''.S 1))).drop 2).advance Instr.mstore.length)

/-- MSTORE8 (R363): the low byte of `S[1]`. -/
def execMstore8 (s : State) : Result :=
  dispatch .mstore8 s fun s' =>
    expand (s'.S 0).toNat 1 s' fun s'' =>
      .next (((s''.writeMem (s''.S 0).toNat [(s''.S 1).setWidth 8]).drop 2).advance
        Instr.mstore8.length)

/-- `msize` as a word. It is below `2^256` whenever MEM_MAX is; where it is not, the spec gives no
word for it and the value is free (log 9). -/
def State.msizeWord (s : State) : Word :=
  if s.msize < 2 ^ 256 then u256 s.msize else Config.wideMsize s.msize

/-- MSIZE (R364). -/
def execMsize (s : State) : Result := pushOp .msize State.msizeWord s

end Sys2Proof.Machine
end

