-- ==== Sys2Proof/Machine/Stack.lean ====
section
/-! DEFINITION. The stack instructions (spec/43_stack.md): POP, PUSH1 to PUSH32, DUP1 to DUP16 and
SWAP1 to SWAP16. -/

namespace Sys2Proof.Machine

/-! ### The generic rules -/

/-- PUSHn (R262): push the immediate; the advance is clamped at the end of code (R155). -/
def pushImmediate (i : Instr) (s : State) : Result := pushOp i (fun _ => i.immediate.2) s

/-- DUPk (R295): push `S[k-1]`. -/
def dupWord (i : Instr) (k : Nat) (s : State) : Result := pushOp i (fun s' => s'.S (k - 1)) s

/-- SWAPk (R312): exchange `S[0]` and `S[k]`. -/
def swapWords (i : Instr) (k : Nat) (s : State) : Result :=
  dispatch i s fun s' => .next ((s'.swap k).advance i.length)

/-! ### The meanings -/

/-- POP (R261). -/
def execPop (s : State) : Result :=
  dispatch .pop s fun s' => .next ((s'.drop 1).advance Instr.pop.length)

/-- PUSH1 (R263). -/
def execPush1 (imm : Word) (s : State) : Result := pushImmediate (.push1 imm) s

/-- PUSH2 (R264). -/
def execPush2 (imm : Word) (s : State) : Result := pushImmediate (.push2 imm) s

/-- PUSH3 (R265). -/
def execPush3 (imm : Word) (s : State) : Result := pushImmediate (.push3 imm) s

/-- PUSH4 (R266). -/
def execPush4 (imm : Word) (s : State) : Result := pushImmediate (.push4 imm) s

/-- PUSH5 (R267). -/
def execPush5 (imm : Word) (s : State) : Result := pushImmediate (.push5 imm) s

/-- PUSH6 (R268). -/
def execPush6 (imm : Word) (s : State) : Result := pushImmediate (.push6 imm) s

/-- PUSH7 (R269). -/
def execPush7 (imm : Word) (s : State) : Result := pushImmediate (.push7 imm) s

/-- PUSH8 (R270). -/
def execPush8 (imm : Word) (s : State) : Result := pushImmediate (.push8 imm) s

/-- PUSH9 (R271). -/
def execPush9 (imm : Word) (s : State) : Result := pushImmediate (.push9 imm) s

/-- PUSH10 (R272). -/
def execPush10 (imm : Word) (s : State) : Result := pushImmediate (.push10 imm) s

/-- PUSH11 (R273). -/
def execPush11 (imm : Word) (s : State) : Result := pushImmediate (.push11 imm) s

/-- PUSH12 (R274). -/
def execPush12 (imm : Word) (s : State) : Result := pushImmediate (.push12 imm) s

/-- PUSH13 (R275). -/
def execPush13 (imm : Word) (s : State) : Result := pushImmediate (.push13 imm) s

/-- PUSH14 (R276). -/
def execPush14 (imm : Word) (s : State) : Result := pushImmediate (.push14 imm) s

/-- PUSH15 (R277). -/
def execPush15 (imm : Word) (s : State) : Result := pushImmediate (.push15 imm) s

/-- PUSH16 (R278). -/
def execPush16 (imm : Word) (s : State) : Result := pushImmediate (.push16 imm) s

/-- PUSH17 (R279). -/
def execPush17 (imm : Word) (s : State) : Result := pushImmediate (.push17 imm) s

/-- PUSH18 (R280). -/
def execPush18 (imm : Word) (s : State) : Result := pushImmediate (.push18 imm) s

/-- PUSH19 (R281). -/
def execPush19 (imm : Word) (s : State) : Result := pushImmediate (.push19 imm) s

/-- PUSH20 (R282). -/
def execPush20 (imm : Word) (s : State) : Result := pushImmediate (.push20 imm) s

/-- PUSH21 (R283). -/
def execPush21 (imm : Word) (s : State) : Result := pushImmediate (.push21 imm) s

/-- PUSH22 (R284). -/
def execPush22 (imm : Word) (s : State) : Result := pushImmediate (.push22 imm) s

/-- PUSH23 (R285). -/
def execPush23 (imm : Word) (s : State) : Result := pushImmediate (.push23 imm) s

/-- PUSH24 (R286). -/
def execPush24 (imm : Word) (s : State) : Result := pushImmediate (.push24 imm) s

/-- PUSH25 (R287). -/
def execPush25 (imm : Word) (s : State) : Result := pushImmediate (.push25 imm) s

/-- PUSH26 (R288). -/
def execPush26 (imm : Word) (s : State) : Result := pushImmediate (.push26 imm) s

/-- PUSH27 (R289). -/
def execPush27 (imm : Word) (s : State) : Result := pushImmediate (.push27 imm) s

/-- PUSH28 (R290). -/
def execPush28 (imm : Word) (s : State) : Result := pushImmediate (.push28 imm) s

/-- PUSH29 (R291). -/
def execPush29 (imm : Word) (s : State) : Result := pushImmediate (.push29 imm) s

/-- PUSH30 (R292). -/
def execPush30 (imm : Word) (s : State) : Result := pushImmediate (.push30 imm) s

/-- PUSH31 (R293). -/
def execPush31 (imm : Word) (s : State) : Result := pushImmediate (.push31 imm) s

/-- PUSH32 (R294). -/
def execPush32 (imm : Word) (s : State) : Result := pushImmediate (.push32 imm) s

/-- DUP1 (R296). -/
def execDup1 (s : State) : Result := dupWord .dup1 1 s

/-- DUP2 (R297). -/
def execDup2 (s : State) : Result := dupWord .dup2 2 s

/-- DUP3 (R298). -/
def execDup3 (s : State) : Result := dupWord .dup3 3 s

/-- DUP4 (R299). -/
def execDup4 (s : State) : Result := dupWord .dup4 4 s

/-- DUP5 (R300). -/
def execDup5 (s : State) : Result := dupWord .dup5 5 s

/-- DUP6 (R301). -/
def execDup6 (s : State) : Result := dupWord .dup6 6 s

/-- DUP7 (R302). -/
def execDup7 (s : State) : Result := dupWord .dup7 7 s

/-- DUP8 (R303). -/
def execDup8 (s : State) : Result := dupWord .dup8 8 s

/-- DUP9 (R304). -/
def execDup9 (s : State) : Result := dupWord .dup9 9 s

/-- DUP10 (R305). -/
def execDup10 (s : State) : Result := dupWord .dup10 10 s

/-- DUP11 (R306). -/
def execDup11 (s : State) : Result := dupWord .dup11 11 s

/-- DUP12 (R307). -/
def execDup12 (s : State) : Result := dupWord .dup12 12 s

/-- DUP13 (R308). -/
def execDup13 (s : State) : Result := dupWord .dup13 13 s

/-- DUP14 (R309). -/
def execDup14 (s : State) : Result := dupWord .dup14 14 s

/-- DUP15 (R310). -/
def execDup15 (s : State) : Result := dupWord .dup15 15 s

/-- DUP16 (R311). -/
def execDup16 (s : State) : Result := dupWord .dup16 16 s

/-- SWAP1 (R313). -/
def execSwap1 (s : State) : Result := swapWords .swap1 1 s

/-- SWAP2 (R314). -/
def execSwap2 (s : State) : Result := swapWords .swap2 2 s

/-- SWAP3 (R315). -/
def execSwap3 (s : State) : Result := swapWords .swap3 3 s

/-- SWAP4 (R316). -/
def execSwap4 (s : State) : Result := swapWords .swap4 4 s

/-- SWAP5 (R317). -/
def execSwap5 (s : State) : Result := swapWords .swap5 5 s

/-- SWAP6 (R318). -/
def execSwap6 (s : State) : Result := swapWords .swap6 6 s

/-- SWAP7 (R319). -/
def execSwap7 (s : State) : Result := swapWords .swap7 7 s

/-- SWAP8 (R320). -/
def execSwap8 (s : State) : Result := swapWords .swap8 8 s

/-- SWAP9 (R321). -/
def execSwap9 (s : State) : Result := swapWords .swap9 9 s

/-- SWAP10 (R322). -/
def execSwap10 (s : State) : Result := swapWords .swap10 10 s

/-- SWAP11 (R323). -/
def execSwap11 (s : State) : Result := swapWords .swap11 11 s

/-- SWAP12 (R324). -/
def execSwap12 (s : State) : Result := swapWords .swap12 12 s

/-- SWAP13 (R325). -/
def execSwap13 (s : State) : Result := swapWords .swap13 13 s

/-- SWAP14 (R326). -/
def execSwap14 (s : State) : Result := swapWords .swap14 14 s

/-- SWAP15 (R327). -/
def execSwap15 (s : State) : Result := swapWords .swap15 15 s

/-- SWAP16 (R328). -/
def execSwap16 (s : State) : Result := swapWords .swap16 16 s

end Sys2Proof.Machine
end

