-- ==== Sys2Proof/Machine/Step.lean ====
section
/-! DEFINITION. The execution loop's step (spec/40_execution_loop.md R148-R151, R157). -/

namespace Sys2Proof.Machine

/-- One step (R150): none once halted (R149); the implicit stop at the end of code (R151); else the
instruction at the pc, InvalidOpcode for an unassigned byte (R141), the refusal for a refused one
(R157). -/
def step (s : State) : Host.Outcome State Fault Refusal :=
  if s.halted then .fault .alreadyHalted
  else
    match decode s.fetchBytes with
    | .endOfCode => stopAtEndOfCode s
    | .refused op => .refused (.refusedByte op)
    | .unassigned _ => execUnassigned s
    | .instr i => exec i s

/-- The state with an opcode-table word placed where the next step fetches (log 2). -/
def State.withFetchWord (s : State) (nbits w : Nat) : State := s.placeCode (tableBytes nbits w)

end Sys2Proof.Machine
end

