-- ==== Sys2Proof/Machine/Execute.lean ====
section
/-! DEFINITION. The block's one entry point, `execute(bytecode, input_data, gas_budget)`
(spec/10_state.md R45), as its parts: the start of an execution, a warm restart, the loop, and the
outcome the orchestrator gets back. -/

namespace Sys2Proof.Machine

/-- What the orchestrator supplies: the code, the input, the gas budget, and the answers it will give
on the storage port (R45, R49; log 4). -/
structure Transaction where
  code : List Byte
  inputData : List Byte
  gasBudget : BitVec 64
  portCosts : List Nat
  portValues : List Word
  deriving DecidableEq, Repr

/-- What the orchestrator gets back: `(status.CODE, rdata, gas)` (R45, R442). -/
structure ExecutionOutcome where
  code : BitVec 4
  rdata : List Byte
  gas : BitVec 64
  deriving DecidableEq, Repr

/-- The CallFrame of R50 over a Program already built; the Program and the parameters stay
(R455, R484). -/
def State.freshFrame (s : State) (t : Transaction) : State :=
  { s with
    inputData := t.inputData
    status := runningStatus
    pc := 0
    stack := []
    mem := []
    msize := 0
    gas := t.gasBudget
    rdata := []
    portLog := []
    portCosts := t.portCosts
    portValues := t.portValues
    portDraws := 0 }

/-- The start of an execution (R45, R480): a code longer than CODE_MAX is not admitted (R483), JD is
built before the first step (R482), and every piece of state is as R50 says. -/
def startExecution (p : Params) (t : Transaction) : Result :=
  if p.codeMax < t.code.length then .refused .codeTooLong
  else .next (({ State.reset with params := p, code := t.code, jd := buildJD t.code }).freshFrame t)

/-- A warm restart: a new execution of the same Program (R484). -/
def restartExecution (s : State) (t : Transaction) : State := s.freshFrame t

/-- At most `n` steps, up to the first state with HALTED = 1 (R45, R168). It never answers a state that
still runs: once the `n` steps are used up it refuses (log 14). -/
def runToHalt : Nat → State → Result
  | 0, s => if s.halted then .next s else .refused .stepBoundSpent
  | n + 1, s =>
    if s.halted then .next s
    else
      match step s with
      | .next s' => runToHalt n s'
      | .fault r => .fault r
      | .refused r => .refused r

/-- `execute` (R45): as many steps as the budget allows, `gas_budget + 1` (R159; log 14), then the
outcome of the halted state. -/
def execute (p : Params) (t : Transaction) : Host.Outcome ExecutionOutcome Fault Refusal :=
  match startExecution p t with
  | .fault r => .fault r
  | .refused r => .refused r
  | .next s =>
    match runToHalt (t.gasBudget.toNat + 1) s with
    | .next s' => .next ⟨s'.outcome, s'.rdata, s'.gas⟩
    | .fault r => .fault r
    | .refused r => .refused r

end Sys2Proof.Machine
end

