-- ==== Sys2Proof/Safety.lean ====
section
/-! DEFINITION. The terms claims are stated in: the constraints on the open parameters, the machine's
invariants, the forms a step's answer takes, and the shape of an instruction rule. -/

namespace Sys2Proof.Machine

/-! ### Constraints on the parameters (R9) -/

/-- What R9 and R33 ask of the parameters: MEM_MAX is a multiple of 32, the pc is wide enough for every
pc up to CODE_MAX, and GAS_SCHEDULE has an entry for every opcode byte. MEM_COST meets R9 by
construction (`memCostOf`). -/
abbrev ParamsOk (p : Params) : Prop :=
  p.memMax % 32 = 0 ∧ p.codeMax < 2 ^ 32 ∧ p.gasSchedule.length = 256

/-- The instructions R9 asks a cost of at least 1 for and whose dynamic cost can be 0: all but STOP,
RETURN, REVERT and INVALID, and but SLOAD and SSTORE, whose dynamic cost is at least 1. -/
abbrev NeedsBaseCost (i : Instr) : Prop :=
  i ≠ .stop ∧ i ≠ .ret ∧ i ≠ .revert ∧ i ≠ .invalid ∧ i ≠ .sload ∧ i ≠ .sstore

/-- The rest of R9: every instruction other than STOP, RETURN, REVERT and INVALID has base cost plus
least dynamic cost at least 1. -/
def ProgressOk (p : Params) : Prop :=
  ∀ i, NeedsBaseCost i → 1 ≤ p.gasSchedule.getD (opcode i).toNat 0

/-- Every cost answer the orchestrator has lined up on the storage port is at least 1 (R9, R382). -/
abbrev PortOk (costs : List Nat) : Prop := ∀ c ∈ costs, 1 ≤ c

/-! ### Invariants -/

/-- What holds of every state of an execution. -/
structure State.Inv (s : State) : Prop where
  /-- The parameters meet R9. -/
  params : ParamsOk s.params
  /-- The code was admitted (R40, R45). -/
  codeLen : s.code.length ≤ s.params.codeMax
  /-- JD is the set R163 builds from the code (R41). -/
  jd : s.jd = buildJD s.code
  /-- `0 ≤ PC ≤ len(Bytecode)` (R33). -/
  pc : s.pc.toNat ≤ s.code.length
  /-- At most 1024 words (R32, R166). -/
  depth : s.depth ≤ stackCap
  /-- Memory is in its canonical form. -/
  memForm : Memory.wf s.mem
  /-- Every listed byte exists (R37). -/
  memLow : ∀ c ∈ s.mem, c.1 < s.msize
  /-- The length is a multiple of 32 (R36). -/
  msizeGrain : s.msize % 32 = 0
  /-- The length is at most MEM_MAX (R36). -/
  msizeMax : s.msize ≤ s.params.memMax
  /-- `status` is Running, or Halted with one of the nine outcomes; reserved bits and codes never
  appear (R38, R441). -/
  status : s.status = runningStatus ∨ ∃ k, s.status = haltedStatus k
  /-- Return data is empty but after RETURN and REVERT (R39). -/
  rdata : s.rdata ≠ [] → s.status = haltedStatus .ret ∨ s.status = haltedStatus .revert
  /-- The port answers costs of at least 1 (R9). -/
  portCosts : PortOk s.portCosts

/-- The offsets of a code's instructions, read from offset 0 on: each instruction begins where the one
before it ends (R102). -/
inductive InstrStart (code : List Byte) : Nat → Prop where
  | entry : 0 < code.length → InstrStart code 0
  | next (o : Nat) (op : Byte) : InstrStart code o → code[o]? = some op →
      o + 1 + immediateBytes op < code.length → InstrStart code (o + 1 + immediateBytes op)

/-- The pc is at the start of an instruction, never inside an immediate, or at the end of code
(R105). -/
def State.AtInstr (s : State) : Prop :=
  InstrStart s.code s.pc.toNat ∨ s.pc.toNat = s.code.length

/-! ### The forms of a next state -/

/-- A fault that took `spent` gas before it was raised (R160): `status`, `rdata` and `gas` change and
nothing else. -/
def State.faulted (s : State) (x : OutcomeKind) (spent : Nat) : State :=
  { s with
    status := haltedStatus x
    rdata := []
    gas := BitVec.ofNat 64 (s.gas.toNat - spent) }

/-- An instruction of `len` bytes that completed: `cost` gas spent, the stack replaced, the pc advanced
and clamped at the end of code (R155), and nothing else changed. -/
def State.done (s : State) (cost : Nat) (stack : List Word) (len : Nat) : State :=
  { s with
    gas := BitVec.ofNat 64 (s.gas.toNat - cost)
    stack := stack
    pc := BitVec.ofNat 32 (min (s.pc.toNat + len) s.code.length) }

/-- An instruction that halted with outcome `k` and return data: `cost` gas spent, the stack replaced,
the pc where it was (R161), and nothing else changed. -/
def State.haltedWith (s : State) (cost : Nat) (stack : List Word) (k : OutcomeKind)
    (data : List Byte) : State :=
  { s with
    gas := BitVec.ofNat 64 (s.gas.toNat - cost)
    stack := stack
    status := haltedStatus k
    rdata := data }

/-- A next state of instruction `i` that is a fault of R160: OutOfGas with nothing charged where the gas
is below the base cost; else one of the six faults with the base cost spent, because every other charge
of an instruction that faults is the failed one, which takes nothing (R152). Nothing but `status`,
`rdata` and `gas` changes. -/
def Faulted (i : Instr) (s t : State) : Prop :=
  (s.gas.toNat < s.baseGas (opcode i) ∧ t = s.faulted .outOfGas 0) ∨
  (s.baseGas (opcode i) ≤ s.gas.toNat ∧
    ∃ x, isFault x = true ∧ t = s.faulted x (s.baseGas (opcode i)))

/-! ### Memory accesses -/

/-- The memory length in bytes after an access to `size` bytes from `off` (R63, R69). -/
def State.reach (s : State) (off size : Nat) : Nat :=
  if size = 0 then s.msize else max s.msize (32 * ((off + size + 31) / 32))

/-- The expansion charge of an access to `size` bytes from `off` (R67): MEM_COST of the new length in
words less MEM_COST of the old. -/
def State.accessCost (s : State) (off size : Nat) : Nat :=
  memCostOf s.params.memCost (s.reach off size / 32) - memCostOf s.params.memCost (s.msize / 32)

/-- Whether an access to `size` bytes from `off` passes the memory ceiling (R68, R69). -/
abbrev State.overCeiling (s : State) (off size : Nat) : Prop :=
  size ≠ 0 ∧ s.params.memMax < off + size

/-! ### The shape of an instruction rule

Every rule of 41_ to 47_ gives an encoding, a descriptor (minimum depth, stack delta, default base
cost), the outcomes the descriptor raises, and a handler. -/

/-- The descriptor part of the rule of `i`: its opcode byte, its columns, its default base cost, and in
every state OutOfGas below the base cost, then StackUnderflow, then StackOverflow (R143, R144,
R153, R160). -/
def DescriptorRule (i : Instr) (op : Byte) (min : Nat) (delta : Int) (base : Nat) : Prop :=
  opcode i = op ∧ stackColumns i = (min, delta) ∧ State.reset.baseGas op = base ∧
  ∀ s : State,
    (s.gas.toNat < s.baseGas op → exec i s = .next (s.faulted .outOfGas 0)) ∧
    (s.baseGas op ≤ s.gas.toNat → s.depth < min →
      exec i s = .next (s.faulted .stackUnderflow (s.baseGas op))) ∧
    (s.baseGas op ≤ s.gas.toNat → min ≤ s.depth → 1024 < s.depth + delta →
      exec i s = .next (s.faulted .stackOverflow (s.baseGas op)))

/-- The rule of a one-byte instruction that replaces its top word `a` by `f a` (R200, R230). -/
def UnaryRule (i : Instr) (op : Byte) (base : Nat) (f : Word → Word) : Prop :=
  DescriptorRule i op 1 0 base ∧ encode i = [op] ∧
  ∀ s a rest, s.stack = a :: rest → s.depth ≤ 1024 → s.baseGas op ≤ s.gas.toNat →
    exec i s = .next (s.done (s.baseGas op) (f a :: rest) 1)

/-- The rule of a one-byte instruction that replaces its top words `a`, `b` by `f a b` (R200, R230). -/
def BinaryRule (i : Instr) (op : Byte) (base : Nat) (f : Word → Word → Word) : Prop :=
  DescriptorRule i op 2 (-1) base ∧ encode i = [op] ∧
  ∀ s a b rest, s.stack = a :: b :: rest → s.depth ≤ 1024 → s.baseGas op ≤ s.gas.toNat →
    exec i s = .next (s.done (s.baseGas op) (f a b :: rest) 1)

/-- The rule of a one-byte instruction that replaces its top words `a`, `b`, `n` by `f a b n` (R200). -/
def TernaryRule (i : Instr) (op : Byte) (base : Nat) (f : Word → Word → Word → Word) : Prop :=
  DescriptorRule i op 3 (-2) base ∧ encode i = [op] ∧
  ∀ s a b n rest, s.stack = a :: b :: n :: rest → s.depth ≤ 1024 → s.baseGas op ≤ s.gas.toNat →
    exec i s = .next (s.done (s.baseGas op) (f a b n :: rest) 1)

/-- The rule of a one-byte bitwise instruction: bit `k` of the result is `g` of bit `k` of `a` and of
`b`, for all 256 bits (R237 to R239). -/
def BitwiseRule (i : Instr) (op : Byte) (base : Nat) (g : Bool → Bool → Bool) : Prop :=
  DescriptorRule i op 2 (-1) base ∧ encode i = [op] ∧
  ∀ s a b rest, s.stack = a :: b :: rest → s.depth ≤ 1024 → s.baseGas op ≤ s.gas.toNat →
    ∃ r : Word, (∀ k, k < 256 → r.getLsbD k = g (a.getLsbD k) (b.getLsbD k)) ∧
      exec i s = .next (s.done (s.baseGas op) (r :: rest) 1)

/-- The rule of a one-byte instruction that pushes a word of the state, read after the base charge
(R364, R381, R404). -/
def ReadRule (i : Instr) (op : Byte) (base : Nat) (f : State → Word) : Prop :=
  DescriptorRule i op 0 1 base ∧ encode i = [op] ∧
  ∀ s, s.depth < 1024 → s.baseGas op ≤ s.gas.toNat →
    exec i s = .next (s.done (s.baseGas op) (f s :: s.stack) 1)

/-- The unassigned bytes as R107 lists them: first and last of each range. -/
def unassignedRanges : List (Nat × Nat) :=
  [(0x0C, 0x0F), (0x1E, 0x1F), (0x21, 0x2F), (0x4B, 0x4F), (0xA5, 0xEF), (0xF6, 0xF9), (0xFB, 0xFC)]

/-- The refused bytes as R108 lists them: first and last of each range. -/
def refusedRanges : List (Nat × Nat) :=
  [(0x20, 0x20), (0x30, 0x3F), (0x40, 0x4A), (0x5C, 0x5F), (0xA0, 0xA4), (0xF0, 0xF2), (0xF4, 0xF4),
   (0xF5, 0xF5), (0xFA, 0xFA), (0xFF, 0xFF)]

/-- Whether a byte lies in one of the ranges. -/
abbrev InRanges (ranges : List (Nat × Nat)) (op : Byte) : Prop :=
  ∃ r ∈ ranges, r.1 ≤ op.toNat ∧ op.toNat ≤ r.2

/-- PUSH1 to PUSH32, each with its number of immediate bytes. -/
def pushInstrs : List ((Word → Instr) × Nat) :=
  [(.push1, 1), (.push2, 2), (.push3, 3), (.push4, 4), (.push5, 5), (.push6, 6), (.push7, 7),
   (.push8, 8), (.push9, 9), (.push10, 10), (.push11, 11), (.push12, 12), (.push13, 13),
   (.push14, 14), (.push15, 15), (.push16, 16), (.push17, 17), (.push18, 18), (.push19, 19),
   (.push20, 20), (.push21, 21), (.push22, 22), (.push23, 23), (.push24, 24), (.push25, 25),
   (.push26, 26), (.push27, 27), (.push28, 28), (.push29, 29), (.push30, 30), (.push31, 31),
   (.push32, 32)]

/-- DUP1 to DUP16, each with its `k`. -/
def dupInstrs : List (Instr × Nat) :=
  [(.dup1, 1), (.dup2, 2), (.dup3, 3), (.dup4, 4), (.dup5, 5), (.dup6, 6), (.dup7, 7), (.dup8, 8),
   (.dup9, 9), (.dup10, 10), (.dup11, 11), (.dup12, 12), (.dup13, 13), (.dup14, 14), (.dup15, 15),
   (.dup16, 16)]

/-- SWAP1 to SWAP16, each with its `k`. -/
def swapInstrs : List (Instr × Nat) :=
  [(.swap1, 1), (.swap2, 2), (.swap3, 3), (.swap4, 4), (.swap5, 5), (.swap6, 6), (.swap7, 7),
   (.swap8, 8), (.swap9, 9), (.swap10, 10), (.swap11, 11), (.swap12, 12), (.swap13, 13),
   (.swap14, 14), (.swap15, 15), (.swap16, 16)]

end Sys2Proof.Machine
end

