-- ==== Sys2Proof/Certificates/Slice0/Obligations.lean ====
section
/-! DEFINITION. The statements for the provers, from the numbered rules of spec/. Each docstring names
the rules it formalises; OBLIGATIONS.json lists them. -/

open Sys2Proof Sys2Proof.Machine

/-! ### Arithmetic (spec/41_arithmetic.md) -/

/-- ADD, MUL and SUB as R201, R202 and R203 give them. -/
def Obligations.AddMulSub : Prop :=
  BinaryRule .add 0x01 3 (fun a b => u256 (a.toNat + b.toNat)) ∧
  BinaryRule .mul 0x02 5 (fun a b => u256 (a.toNat * b.toNat)) ∧
  BinaryRule .sub 0x03 3 (fun a b => u256Int ((a.toNat : Int) - (b.toNat : Int)))

/-- DIV and MOD as R204 and R206 give them: 0 for a zero divisor. -/
def Obligations.DivMod : Prop :=
  BinaryRule .div 0x04 5 (fun a b => if b.toNat = 0 then 0 else u256 (a.toNat / b.toNat)) ∧
  BinaryRule .mod 0x06 5 (fun a b => if b.toNat = 0 then 0 else u256 (a.toNat % b.toNat))

/-- SDIV and SMOD as the pseudocode of R205 and R207 gives them, with `|x|` and `sign(x)`. -/
def Obligations.SdivSmod : Prop :=
  BinaryRule .sdiv 0x05 5 (fun a b =>
    if signed b = 0 then 0
    else if signed a = -2 ^ 255 ∧ signed b = -1 then u256 (2 ^ 255)
    else u256Int ((signed a * signed b).sign * (((signed a).natAbs / (signed b).natAbs : Nat) : Int))) ∧
  BinaryRule .smod 0x07 5 (fun a b =>
    if signed b = 0 then 0
    else u256Int ((signed a).sign * (((signed a).natAbs % (signed b).natAbs : Nat) : Int)))

/-- ADDMOD and MULMOD as R208 and R209 give them: the sum and the product are exact. -/
def Obligations.AddmodMulmod : Prop :=
  TernaryRule .addmod 0x08 8 (fun a b n =>
    if n.toNat = 0 then 0 else u256 ((a.toNat + b.toNat) % n.toNat)) ∧
  TernaryRule .mulmod 0x09 8 (fun a b n =>
    if n.toNat = 0 then 0 else u256 ((a.toNat * b.toNat) % n.toNat))

/-- EXP as R210 gives it. `n` is `bytelen(b)`: `b` fits in `n` bytes and in no fewer. -/
def Obligations.ExpResult : Prop :=
  DescriptorRule .exp 0x0A 2 (-1) 10 ∧ encode .exp = [0x0A] ∧ State.reset.params.expByteCost = 50 ∧
  ∀ (s : State) (a b : Word) (rest : List Word) (n : Nat),
    s.stack = a :: b :: rest → s.depth ≤ 1024 →
    b.toNat < 256 ^ n → (∀ m < n, 256 ^ m ≤ b.toNat) → s.baseGas 0x0A ≤ s.gas.toNat →
    (s.gas.toNat < s.baseGas 0x0A + s.params.expByteCost * n →
      exec .exp s = .next (s.faulted .outOfGas (s.baseGas 0x0A))) ∧
    (s.baseGas 0x0A + s.params.expByteCost * n ≤ s.gas.toNat →
      exec .exp s = .next (s.done (s.baseGas 0x0A + s.params.expByteCost * n)
        (u256 (a.toNat ^ b.toNat) :: rest) 1))

/-- SIGNEXTEND as R211 gives it, in its form `sext_256(x[t:0])` with `t = 8*k + 7`. -/
def Obligations.SignextendResult : Prop :=
  BinaryRule .signextend 0x0B 5 (fun k x =>
    if k.toNat < 31 then (x.extractLsb' 0 (8 * k.toNat + 8)).signExtend 256 else x)

/-! ### Comparison, bitwise and shift (spec/42_compare_bitwise.md) -/

/-- LT, GT, SLT and SGT as R231 to R234 give them. -/
def Obligations.CompareResult : Prop :=
  BinaryRule .lt 0x10 3 (fun a b => if a.toNat < b.toNat then 1 else 0) ∧
  BinaryRule .gt 0x11 3 (fun a b => if a.toNat > b.toNat then 1 else 0) ∧
  BinaryRule .slt 0x12 3 (fun a b => if signed a < signed b then 1 else 0) ∧
  BinaryRule .sgt 0x13 3 (fun a b => if signed a > signed b then 1 else 0)

/-- EQ and ISZERO as R235 and R236 give them. -/
def Obligations.EqIszero : Prop :=
  BinaryRule .eq 0x14 3 (fun a b => if a.toNat = b.toNat then 1 else 0) ∧
  UnaryRule .iszero 0x15 3 (fun a => if a.toNat = 0 then 1 else 0)

/-- AND, OR, XOR bit by bit as R237, R238 and R239 give them, and NOT as `MAXW - a` (R240). -/
def Obligations.BitwiseResult : Prop :=
  BitwiseRule .and 0x16 3 (fun p q => p && q) ∧
  BitwiseRule .or 0x17 3 (fun p q => p || q) ∧
  BitwiseRule .xor 0x18 3 (fun p q => p ^^ q) ∧
  UnaryRule .not 0x19 3 (fun a => u256 (2 ^ 256 - 1 - a.toNat))

/-- BYTE as R241 gives it: bits `255 - 8*i : 248 - 8*i`, or 0 for an index of 32 or more. -/
def Obligations.ByteResult : Prop :=
  BinaryRule .byte 0x1A 3 (fun i x =>
    if i.toNat < 32 then (x.extractLsb' (248 - 8 * i.toNat) 8).setWidth 256 else 0)

/-- SHL and SHR as R242 and R243 give them: 0 for an amount of 256 or more. -/
def Obligations.ShlShr : Prop :=
  BinaryRule .shl 0x1B 3 (fun n v => if n.toNat < 256 then u256 (v.toNat * 2 ^ n.toNat) else 0) ∧
  BinaryRule .shr 0x1C 3 (fun n v => if n.toNat < 256 then u256 (v.toNat / 2 ^ n.toNat) else 0)

/-- SAR as R244 gives it: `floor(signed(v) / 2^s)`, rounding toward minus infinity; all sign bits for an
amount of 256 or more. -/
def Obligations.SarResult : Prop :=
  BinaryRule .sar 0x1D 3 (fun n v =>
    if n.toNat < 256 then u256Int (signed v / 2 ^ n.toNat)
    else if v.getLsbD 255 then u256 (2 ^ 256 - 1) else 0)

/-! ### Stack (spec/43_stack.md) -/

/-- POP as R261 gives it. -/
def Obligations.PopDropsTop : Prop :=
  DescriptorRule .pop 0x50 1 (-1) 2 ∧ encode .pop = [0x50] ∧
  ∀ (s : State) (a : Word) (rest : List Word),
    s.stack = a :: rest → s.depth ≤ 1024 → s.baseGas 0x50 ≤ s.gas.toNat →
    exec .pop s = .next (s.done (s.baseGas 0x50) rest 1)

/-- PUSHn as R262 gives it, from the code bytes at the pc: byte `k` of the immediate, most significant
first, is `CodeByte(pc+1+k)`, which is 0 past the end of code (R103, R104), the value has no other
bits, and the pc stops at the end of code. -/
def Obligations.PushFromCode : Prop :=
  ∀ n, 1 ≤ n → n ≤ 32 →
    State.reset.baseGas (BitVec.ofNat 8 (0x5F + n)) = 3 ∧
    ∀ s : State, s.halted = false → s.code[s.pc.toNat]? = some (BitVec.ofNat 8 (0x5F + n)) →
      let base := s.baseGas (BitVec.ofNat 8 (0x5F + n))
      (s.gas.toNat < base → step s = .next (s.faulted .outOfGas 0)) ∧
      (base ≤ s.gas.toNat → 1024 ≤ s.depth → step s = .next (s.faulted .stackOverflow base)) ∧
      (base ≤ s.gas.toNat → s.depth < 1024 →
        ∃ v : Word, v.toNat < 2 ^ (8 * n) ∧
          (∀ k < n, v.extractLsb' (8 * (n - 1 - k)) 8 = s.codeByte (s.pc.toNat + 1 + k)) ∧
          step s = .next (s.done base (v :: s.stack) (1 + n)))

/-- Every PUSHn, as an instruction with its immediate, pushes that immediate (R262). -/
def Obligations.PushCompletes : Prop :=
  ∀ p ∈ pushInstrs, ∀ imm : Word,
    DescriptorRule (p.1 imm) (BitVec.ofNat 8 (0x5F + p.2)) 0 1 3 ∧
    ∀ s : State, s.depth < 1024 → s.baseGas (BitVec.ofNat 8 (0x5F + p.2)) ≤ s.gas.toNat →
      exec (p.1 imm) s =
        .next (s.done (s.baseGas (BitVec.ofNat 8 (0x5F + p.2))) (imm :: s.stack) (1 + p.2))

/-- DUPk as R295 gives it, for `k = 1 .. 16`. -/
def Obligations.DupCopies : Prop :=
  ∀ p ∈ dupInstrs,
    DescriptorRule p.1 (BitVec.ofNat 8 (0x7F + p.2)) p.2 1 3 ∧
    encode p.1 = [BitVec.ofNat 8 (0x7F + p.2)] ∧
    ∀ (s : State) (v : Word), s.stack[p.2 - 1]? = some v → s.depth < 1024 →
      s.baseGas (BitVec.ofNat 8 (0x7F + p.2)) ≤ s.gas.toNat →
      exec p.1 s = .next (s.done (s.baseGas (BitVec.ofNat 8 (0x7F + p.2))) (v :: s.stack) 1)

/-- SWAPk as R312 gives it, for `k = 1 .. 16`: `t` on top and `u` at `S[k]` are exchanged and the words
between them untouched. -/
def Obligations.SwapExchanges : Prop :=
  ∀ p ∈ swapInstrs,
    DescriptorRule p.1 (BitVec.ofNat 8 (0x8F + p.2)) (p.2 + 1) 0 3 ∧
    encode p.1 = [BitVec.ofNat 8 (0x8F + p.2)] ∧
    ∀ (s : State) (t u : Word) (between rest : List Word),
      s.stack = t :: (between ++ u :: rest) → between.length = p.2 - 1 → s.depth ≤ 1024 →
      s.baseGas (BitVec.ofNat 8 (0x8F + p.2)) ≤ s.gas.toNat →
      exec p.1 s = .next (s.done (s.baseGas (BitVec.ofNat 8 (0x8F + p.2)))
        (u :: (between ++ t :: rest)) 1)

/-! ### Memory (spec/44_memory_ops.md)

Under the invariant, an access below the ceiling changes the memory length to `reach` and costs
`accessCost`; memory bytes change by the store alone. -/

/-- MLOAD as R361 gives it: MemoryLimitExceeded above the ceiling, then OutOfGas for the expansion,
else the word whose byte `k`, most significant first, is `mem[off + k]`. -/
def Obligations.MloadReads : Prop :=
  DescriptorRule .mload 0x51 1 0 3 ∧ encode .mload = [0x51] ∧
  ∀ (s : State) (off : Word) (rest : List Word),
    s.Inv → s.stack = off :: rest → s.baseGas 0x51 ≤ s.gas.toNat →
    let cost := s.baseGas 0x51 + s.accessCost off.toNat 32
    (s.overCeiling off.toNat 32 →
      exec .mload s = .next (s.faulted .memoryLimitExceeded (s.baseGas 0x51))) ∧
    (¬ s.overCeiling off.toNat 32 → s.gas.toNat < cost →
      exec .mload s = .next (s.faulted .outOfGas (s.baseGas 0x51))) ∧
    (¬ s.overCeiling off.toNat 32 → cost ≤ s.gas.toNat →
      ∃ v : Word,
        (∀ k < 32, v.extractLsb' (248 - 8 * k) 8 = Memory.read s.mem (off.toNat + k)) ∧
        exec .mload s =
          .next { s.done cost (v :: rest) 1 with msize := s.reach off.toNat 32 })

/-- MSTORE as R362 gives it: byte `k` of the value, most significant first, goes to `mem[off + k]`, and
every other byte of memory reads as before. -/
def Obligations.MstoreWrites : Prop :=
  DescriptorRule .mstore 0x52 2 (-2) 3 ∧ encode .mstore = [0x52] ∧
  ∀ (s : State) (off v : Word) (rest : List Word),
    s.Inv → s.stack = off :: v :: rest → s.baseGas 0x52 ≤ s.gas.toNat →
    let cost := s.baseGas 0x52 + s.accessCost off.toNat 32
    (s.overCeiling off.toNat 32 →
      exec .mstore s = .next (s.faulted .memoryLimitExceeded (s.baseGas 0x52))) ∧
    (¬ s.overCeiling off.toNat 32 → s.gas.toNat < cost →
      exec .mstore s = .next (s.faulted .outOfGas (s.baseGas 0x52))) ∧
    (¬ s.overCeiling off.toNat 32 → cost ≤ s.gas.toNat →
      ∃ m : Memory,
        (∀ k < 32, Memory.read m (off.toNat + k) = v.extractLsb' (248 - 8 * k) 8) ∧
        (∀ a, a < off.toNat ∨ off.toNat + 32 ≤ a → Memory.read m a = Memory.read s.mem a) ∧
        Memory.wf m ∧
        exec .mstore s =
          .next { s.done cost rest 1 with msize := s.reach off.toNat 32, mem := m })

/-- MSTORE8 as R363 gives it: the low byte of the value goes to `mem[off]`, and every other byte of
memory reads as before. -/
def Obligations.Mstore8Writes : Prop :=
  DescriptorRule .mstore8 0x53 2 (-2) 3 ∧ encode .mstore8 = [0x53] ∧
  ∀ (s : State) (off v : Word) (rest : List Word),
    s.Inv → s.stack = off :: v :: rest → s.baseGas 0x53 ≤ s.gas.toNat →
    let cost := s.baseGas 0x53 + s.accessCost off.toNat 1
    (s.overCeiling off.toNat 1 →
      exec .mstore8 s = .next (s.faulted .memoryLimitExceeded (s.baseGas 0x53))) ∧
    (¬ s.overCeiling off.toNat 1 → s.gas.toNat < cost →
      exec .mstore8 s = .next (s.faulted .outOfGas (s.baseGas 0x53))) ∧
    (¬ s.overCeiling off.toNat 1 → cost ≤ s.gas.toNat →
      ∃ m : Memory,
        Memory.read m off.toNat = v.extractLsb' 0 8 ∧
        (∀ a, a ≠ off.toNat → Memory.read m a = Memory.read s.mem a) ∧
        Memory.wf m ∧
        exec .mstore8 s =
          .next { s.done cost rest 1 with msize := s.reach off.toNat 1, mem := m })

/-- MSIZE as R364 gives it, where the length fits in a word. Where it does not (only with MEM_MAX above
`2^256 - 1`) the instruction completes all the same and the pushed word is free (log 9). -/
def Obligations.MsizePushes : Prop :=
  DescriptorRule .msize 0x59 0 1 2 ∧ encode .msize = [0x59] ∧
  ∀ s : State, s.depth < 1024 → s.baseGas 0x59 ≤ s.gas.toNat →
    ∃ v : Word, (s.msize < 2 ^ 256 → v.toNat = s.msize) ∧
      exec .msize s = .next (s.done (s.baseGas 0x59) (v :: s.stack) 1)

/-- A store and a later read of the same bytes (R71): MSTORE then MLOAD at one offset gives the word
back; MSTORE8 into the window of an MLOAD shows at bits `255-8k : 248-8k`; MSTORE then RETURN of the 32
bytes gives them most significant first. -/
def Obligations.MixedWidthAccess : Prop :=
  (∀ (s t u : State) (off v : Word) (rest : List Word),
    s.Inv → s.halted = false → s.stack = off :: v :: rest →
    exec .mstore s = .next t → t.halted = false →
    exec .mload { t with stack := off :: rest } = .next u → u.halted = false →
    u.stack = v :: rest) ∧
  (∀ (s t u : State) (off at' v : Word) (k : Nat) (rest : List Word),
    s.Inv → s.halted = false → s.stack = at' :: v :: rest →
    k < 32 → at'.toNat = off.toNat + k →
    exec .mstore8 s = .next t → t.halted = false →
    exec .mload { t with stack := off :: rest } = .next u → u.halted = false →
    (u.S 0).extractLsb' (248 - 8 * k) 8 = v.extractLsb' 0 8) ∧
  (∀ (s t u : State) (off v : Word) (rest : List Word),
    s.Inv → s.halted = false → s.stack = off :: v :: rest →
    exec .mstore s = .next t → t.halted = false →
    exec .ret { t with stack := off :: 32 :: rest } = .next u → u.status = haltedStatus .ret →
    u.rdata.length = 32 ∧ ∀ k < 32, u.rdata[k]? = some (v.extractLsb' (248 - 8 * k) 8))

/-! ### Gas and the storage port (spec/45_gas_storage.md) -/

/-- GAS as R381 gives it: the counter after this instruction's own base charge. -/
def Obligations.GasPushesCounter : Prop :=
  ReadRule .gas 0x5A 2 (fun s => u256 (s.gas.toNat - s.baseGas 0x5A))

/-- SLOAD as R382 gives it: the port's cost answer is charged first, and only then is the read issued
and its answer pushed. Where the answers come from is the model's choice (log 4): those lined up in
`portCosts` and `portValues`, taken in order, as the second part says, then free values; and so is the
least cost answer of 1 in the third part. That the read is kept in `portLog` is log 5. -/
def Obligations.SloadReadsPort : Prop :=
  DescriptorRule .sload 0x54 1 0 0 ∧ encode .sload = [0x54] ∧
  (∀ (s : State) (key : Word) (rest : List Word),
    s.stack = key :: rest → s.depth ≤ 1024 → s.baseGas 0x54 ≤ s.gas.toNat →
    (s.gas.toNat < s.baseGas 0x54 + s.portCost →
      exec .sload s = .next (s.faulted .outOfGas (s.baseGas 0x54))) ∧
    (s.baseGas 0x54 + s.portCost ≤ s.gas.toNat →
      exec .sload s = .next
        { s.takeCost.takeValue.done (s.baseGas 0x54 + s.portCost) (s.takeCost.portValue :: rest) 1 with
          portLog := s.portLog ++ [.read key s.takeCost.portValue] })) ∧
  (∀ (s : State) (key v : Word) (rest vs : List Word) (c : Nat) (cs : List Nat),
    s.stack = key :: rest → s.depth ≤ 1024 → s.portCosts = c :: cs → s.portValues = v :: vs →
    s.baseGas 0x54 + c ≤ s.gas.toNat →
    exec .sload s = .next
      { s.done (s.baseGas 0x54 + c) (v :: rest) 1 with
        portLog := s.portLog ++ [.read key v], portCosts := cs, portValues := vs }) ∧
  (∀ s : State, PortOk s.portCosts → 1 ≤ s.portCost)

/-- SSTORE as R383 gives it: key and value as SSTORE_KEY_FROM chooses them, the port's cost answer
charged first, and only then the write issued. No later instruction takes a write back. Where the cost
answer comes from (`takeCost`) and that it is at least 1 is the model's choice (log 4); that the write
is kept in `portLog` is log 5. -/
def Obligations.SstoreWritesPort : Prop :=
  DescriptorRule .sstore 0x55 2 (-2) 0 ∧ encode .sstore = [0x55] ∧
  State.reset.params.sstoreKeyFrom = .second ∧
  (∀ (s : State) (x y : Word) (rest : List Word),
    s.stack = x :: y :: rest → s.depth ≤ 1024 → s.baseGas 0x55 ≤ s.gas.toNat →
    (s.gas.toNat < s.baseGas 0x55 + s.portCost →
      exec .sstore s = .next (s.faulted .outOfGas (s.baseGas 0x55))) ∧
    (s.baseGas 0x55 + s.portCost ≤ s.gas.toNat →
      (s.params.sstoreKeyFrom = .second →
        exec .sstore s = .next { s.takeCost.done (s.baseGas 0x55 + s.portCost) rest 1 with
          portLog := s.portLog ++ [.write y x] }) ∧
      (s.params.sstoreKeyFrom = .top →
        exec .sstore s = .next { s.takeCost.done (s.baseGas 0x55 + s.portCost) rest 1 with
          portLog := s.portLog ++ [.write x y] }))) ∧
  (∀ s : State, PortOk s.portCosts → 1 ≤ s.portCost) ∧
  (∀ (i : Instr) (s t : State), exec i s = .next t → s.portLog <+: t.portLog)

/-! ### Control flow (spec/46_control_flow.md) -/

/-- JUMP as R401 gives it: to a target in JD, with no default advance; else
InvalidJumpDestination. -/
def Obligations.JumpToDestination : Prop :=
  DescriptorRule .jump 0x56 1 (-1) 8 ∧ encode .jump = [0x56] ∧
  ∀ (s : State) (t : Word) (rest : List Word),
    s.Inv → s.stack = t :: rest → s.baseGas 0x56 ≤ s.gas.toNat →
    (t.toNat ∈ s.jd → (t.setWidth 32).toNat = t.toNat ∧
      exec .jump s = .next { s.done (s.baseGas 0x56) rest 0 with pc := t.setWidth 32 }) ∧
    (t.toNat ∉ s.jd →
      exec .jump s = .next (s.faulted .invalidJumpDestination (s.baseGas 0x56)))

/-- JUMPI as R402 gives it: taken on any non-zero condition; not taken, it falls through, and its target
is validated only if JUMPI_CHECK_UNTAKEN says so. -/
def Obligations.JumpiOnCondition : Prop :=
  DescriptorRule .jumpi 0x57 2 (-2) 10 ∧ encode .jumpi = [0x57] ∧
  State.reset.params.jumpiCheckUntaken = false ∧
  ∀ (s : State) (t c : Word) (rest : List Word),
    s.Inv → s.stack = t :: c :: rest → s.baseGas 0x57 ≤ s.gas.toNat →
    (c.toNat ≠ 0 → t.toNat ∈ s.jd → (t.setWidth 32).toNat = t.toNat ∧
      exec .jumpi s = .next { s.done (s.baseGas 0x57) rest 0 with pc := t.setWidth 32 }) ∧
    (c.toNat ≠ 0 → t.toNat ∉ s.jd →
      exec .jumpi s = .next (s.faulted .invalidJumpDestination (s.baseGas 0x57))) ∧
    (c.toNat = 0 → s.params.jumpiCheckUntaken = true → t.toNat ∉ s.jd →
      exec .jumpi s = .next (s.faulted .invalidJumpDestination (s.baseGas 0x57))) ∧
    (c.toNat = 0 → (s.params.jumpiCheckUntaken = false ∨ t.toNat ∈ s.jd) →
      exec .jumpi s = .next (s.done (s.baseGas 0x57) rest 1))

/-- JUMPDEST as R403 gives it, its offset in JD exactly when it is no immediate byte, and PC as R404
gives it: the offset of its own opcode byte. -/
def Obligations.JumpdestPc : Prop :=
  (DescriptorRule .jumpdest 0x5B 0 0 1 ∧ encode .jumpdest = [0x5B] ∧
    ∀ s : State, s.depth ≤ 1024 → s.baseGas 0x5B ≤ s.gas.toNat →
      exec .jumpdest s = .next (s.done (s.baseGas 0x5B) s.stack 1)) ∧
  (∀ (code : List Byte) (d : Nat), code[d]? = some 0x5B → (d ∈ buildJD code ↔ InstrStart code d)) ∧
  ReadRule .pc 0x58 2 (fun s => u256 s.pc.toNat)

/-! ### Halting (spec/47_halting.md) -/

/-- STOP as R421 gives it. -/
def Obligations.StopHalts : Prop :=
  DescriptorRule .stop 0x00 0 0 0 ∧ encode .stop = [0x00] ∧
  ∀ s : State, s.depth ≤ 1024 → s.baseGas 0x00 ≤ s.gas.toNat →
    exec .stop s = .next (s.haltedWith (s.baseGas 0x00) s.stack .stop [])

/-- RETURN as R422 gives it, and the checks of its `Expand` in order. -/
def Obligations.ReturnHalts : Prop :=
  DescriptorRule .ret 0xF3 2 (-2) 0 ∧ encode .ret = [0xF3] ∧
  ∀ (s : State) (off size : Word) (rest : List Word),
    s.Inv → s.stack = off :: size :: rest → s.baseGas 0xF3 ≤ s.gas.toNat →
    let cost := s.baseGas 0xF3 + s.accessCost off.toNat size.toNat
    (s.overCeiling off.toNat size.toNat →
      exec .ret s = .next (s.faulted .memoryLimitExceeded (s.baseGas 0xF3))) ∧
    (¬ s.overCeiling off.toNat size.toNat → s.gas.toNat < cost →
      exec .ret s = .next (s.faulted .outOfGas (s.baseGas 0xF3))) ∧
    (¬ s.overCeiling off.toNat size.toNat → cost ≤ s.gas.toNat →
      ∃ data : List Byte, data.length = size.toNat ∧
        (∀ k < size.toNat, data[k]? = some (Memory.read s.mem (off.toNat + k))) ∧
        exec .ret s = .next
          { s.haltedWith cost rest .ret data with msize := s.reach off.toNat size.toNat })

/-- REVERT as R423 gives it, and the checks of its `Expand` in order. -/
def Obligations.RevertHalts : Prop :=
  DescriptorRule .revert 0xFD 2 (-2) 0 ∧ encode .revert = [0xFD] ∧
  ∀ (s : State) (off size : Word) (rest : List Word),
    s.Inv → s.stack = off :: size :: rest → s.baseGas 0xFD ≤ s.gas.toNat →
    let cost := s.baseGas 0xFD + s.accessCost off.toNat size.toNat
    (s.overCeiling off.toNat size.toNat →
      exec .revert s = .next (s.faulted .memoryLimitExceeded (s.baseGas 0xFD))) ∧
    (¬ s.overCeiling off.toNat size.toNat → s.gas.toNat < cost →
      exec .revert s = .next (s.faulted .outOfGas (s.baseGas 0xFD))) ∧
    (¬ s.overCeiling off.toNat size.toNat → cost ≤ s.gas.toNat →
      ∃ data : List Byte, data.length = size.toNat ∧
        (∀ k < size.toNat, data[k]? = some (Memory.read s.mem (off.toNat + k))) ∧
        exec .revert s = .next
          { s.haltedWith cost rest .revert data with msize := s.reach off.toNat size.toNat })

/-- INVALID as R424 gives it: its whole effect is the InvalidOpcode fault, and every unassigned byte
behaves exactly like it. -/
def Obligations.InvalidFaults : Prop :=
  DescriptorRule .invalid 0xFE 0 0 0 ∧ encode .invalid = [0xFE] ∧
  (∀ s : State, s.depth ≤ 1024 → s.baseGas 0xFE ≤ s.gas.toNat →
    exec .invalid s = .next (s.faulted .invalidOpcode (s.baseGas 0xFE))) ∧
  ∀ (s : State) (op : Byte), s.halted = false → s.code[s.pc.toNat]? = some op →
    InRanges unassignedRanges op → step s = exec .invalid s

/-! ### The execution loop (spec/40_execution_loop.md) -/

/-- The checks before a handler, for every instruction in every state and in this order: the base charge
(R153), underflow (R143), overflow (R144). -/
def Obligations.ChecksInOrder : Prop :=
  ∀ (i : Instr) (s : State),
    let base := s.baseGas (opcode i)
    (s.gas.toNat < base → exec i s = .next (s.faulted .outOfGas 0)) ∧
    (base ≤ s.gas.toNat → s.depth < (stackColumns i).1 →
      exec i s = .next (s.faulted .stackUnderflow base)) ∧
    (base ≤ s.gas.toNat → (stackColumns i).1 ≤ s.depth →
      (1024 : Int) < s.depth + (stackColumns i).2 →
      exec i s = .next (s.faulted .stackOverflow base))

/-- R160 for every instruction: a fault changes `status`, `rdata` (to empty) and `gas` and nothing else;
the gas taken is the base cost where it was paid, and nothing where it was not. -/
def Obligations.FaultsCommitNothing : Prop :=
  ∀ (i : Instr) (s t : State) (x : OutcomeKind),
    s.halted = false → exec i s = .next t → isFault x = true → t.status = haltedStatus x →
    (s.gas.toNat < s.baseGas (opcode i) ∧ t = s.faulted x 0) ∨
    (s.baseGas (opcode i) ≤ s.gas.toNat ∧ t = s.faulted x (s.baseGas (opcode i)))

/-- An instruction that runs without a fault changes the stack depth by its `stackDelta` (R145), and the
table of R145 keeps the depth within 0 .. 1024 (R166). -/
def Obligations.StackDelta : Prop :=
  ∀ (i : Instr) (s t : State), s.halted = false → exec i s = .next t →
    (∀ x, isFault x = true → t.status ≠ haltedStatus x) →
    (stackColumns i).1 ≤ s.depth ∧ (t.depth : Int) = s.depth + (stackColumns i).2 ∧ t.depth ≤ 1024

/-- No instruction stops the model: `exec` answers a next state for every instruction in every state
(the faults of R441 are next states). -/
def Obligations.EveryInstructionAnswers : Prop :=
  ∀ (i : Instr) (s : State), ∃ t, exec i s = .next t ∧ t.code = s.code ∧ t.gas.toNat ≤ s.gas.toNat

/-- A step of a running state whose bytes at the pc decode to an instruction is `exec` of that
instruction, with nothing around it: the instruction's own meaning advances the pc (R150, R155). -/
def Obligations.StepRunsDecoded : Prop :=
  ∀ (s : State) (i : Instr), s.halted = false → decode (s.code.drop s.pc.toNat) = .instr i →
    step s = exec i s

/-- The implicit stop at the end of code (R151): no charge, and `rdata` empty. -/
def Obligations.EndOfCode : Prop :=
  ∀ s : State, s.halted = false → s.code.length ≤ s.pc.toNat →
    step s = .next (s.haltedWith 0 s.stack .stop [])

/-- The unassigned bytes of R107 raise InvalidOpcode through the invalid descriptor of R141, whose base
cost is that of INVALID (log 8). -/
def Obligations.UnassignedBytes : Prop :=
  ∀ (s : State) (op : Byte), s.halted = false → s.code[s.pc.toNat]? = some op →
    InRanges unassignedRanges op → s.depth ≤ 1024 →
    (s.gas.toNat < s.baseGas 0xFE → step s = .next (s.faulted .outOfGas 0)) ∧
    (s.baseGas 0xFE ≤ s.gas.toNat → step s = .next (s.faulted .invalidOpcode (s.baseGas 0xFE)))

/-- The refused bytes of R108 end the execution with no outcome and before any charge or check (R142,
R157). -/
def Obligations.RefusedBytes : Prop :=
  ∀ (s : State) (op : Byte), s.halted = false → s.code[s.pc.toNat]? = some op →
    InRanges refusedRanges op → step s = .refused (.refusedByte op)

/-- The three classes of R110, as the decoder reads the 256 bytes: 105 core opcodes, 107 unassigned
bytes, 44 refused bytes. -/
def Obligations.ByteClasses : Prop :=
  let classes := (List.range 256).map fun b => decode [BitVec.ofNat 8 b]
  (classes.filter fun d => match d with | .instr _ => true | _ => false).length = 105 ∧
  (classes.filter fun d => match d with | .unassigned _ => true | _ => false).length = 107 ∧
  (classes.filter fun d => match d with | .refused _ => true | _ => false).length = 44

/-- No step is taken once HALTED = 1 (R149); the model says so by a fault of its own (log 6). -/
def Obligations.HaltedFinal : Prop :=
  ∀ s : State, s.status.getLsbD 0 = true → step s = .fault .alreadyHalted

/-- The layout of `status` (R38) and the outcome codes (R441): bit 0 HALTED, bits 4:1 the code, bits 7:5
zero. -/
def Obligations.StatusLayout : Prop :=
  (∀ k : OutcomeKind, (haltedStatus k).getLsbD 0 = true ∧
    (haltedStatus k).extractLsb' 1 4 = outcomeCode k ∧ (haltedStatus k).extractLsb' 5 3 = 0) ∧
  outcomeCode .stop = 0 ∧ outcomeCode .ret = 1 ∧ outcomeCode .revert = 2 ∧
  outcomeCode .outOfGas = 3 ∧ outcomeCode .invalidOpcode = 4 ∧ outcomeCode .stackUnderflow = 5 ∧
  outcomeCode .stackOverflow = 6 ∧ outcomeCode .invalidJumpDestination = 7 ∧
  outcomeCode .memoryLimitExceeded = 8

/-! ### Encoding (spec/30_encoding.md) -/

/-- Decode and encode agree: for every well-formed instruction with any bytes after it, with every
immediate its encoding admits. -/
def Obligations.DecodeEncode : Prop :=
  ∀ (i : Instr) (rest : List Byte), i.WellFormed → decode (encode i ++ rest) = .instr i

/-- The other direction: what decodes to an instruction begins with that instruction's encoding, its
bytes past the end of code read as 0 (R104), and the instruction is well formed. -/
def Obligations.EncodeDecoded : Prop :=
  ∀ (bytes : List Byte) (i : Instr), decode bytes = .instr i →
    i.WellFormed ∧ encode i = takeZeroFilled (1 + immediateBytes (opcode i)) bytes

/-- A few words written out from the encoding tables (R101, R106) decode to the instructions they stand
for. -/
def Obligations.SampleWords : Prop :=
  decode [0x01] = .instr .add ∧ decode [0x1D, 0xFF] = .instr .sar ∧ decode [0x50] = .instr .pop ∧
  decode [0x60, 0x01] = .instr (.push1 1) ∧ decode [0x61, 0x01, 0x02] = .instr (.push2 0x0102) ∧
  decode [0x61, 0xAB] = .instr (.push2 0xAB00) ∧ decode [0x80] = .instr .dup1 ∧
  decode [0x9F] = .instr .swap16 ∧ decode [0x52] = .instr .mstore ∧ decode [0x55] = .instr .sstore ∧
  decode [0x57] = .instr .jumpi ∧ decode [0xF3] = .instr .ret ∧ decode [0xFE] = .instr .invalid ∧
  decode [0x0C] = .unassigned 0x0C ∧ decode [0x20] = .refused 0x20 ∧ decode [] = .endOfCode

/-- The Jump Destination Set holds exactly the offsets where an instruction starts, read from offset 0
on, whose byte is the marker 0x5B: a 0x5B byte inside a PUSHn immediate is none (R163); and each lies
inside the code (R165). -/
def Obligations.JumpDestinations : Prop :=
  ∀ (code : List Byte) (d : Nat),
    (d ∈ buildJD code ↔ InstrStart code d ∧ code[d]? = some 0x5B) ∧
    (d ∈ buildJD code → d < code.length)

/-! ### The machine as a whole -/

/-- Every step keeps the invariant of Safety (R32, R33, R36, R37, R38, R39, R41, R166). -/
def Obligations.InvKept : Prop :=
  ∀ s t : State, s.Inv → core.step s = .next t → t.Inv

/-- The reset state meets the invariant. The reset values of code, input and gas are the model's choice
(log 2). -/
def Obligations.ResetInv : Prop := State.reset.Inv

/-- The start of an execution puts every piece of state to the value of R50. -/
def Obligations.StartState : Prop :=
  ∀ (p : Params) (t : Transaction), t.code.length ≤ p.codeMax →
    ∃ s, startExecution p t = .next s ∧ s.status = 0 ∧ s.pc = 0 ∧ s.stack = [] ∧ s.depth = 0 ∧
      s.msize = 0 ∧ s.mem = [] ∧ s.gas = t.gasBudget ∧ s.rdata = [] ∧ s.code = t.code ∧
      s.jd = buildJD t.code ∧ s.inputData = t.inputData

/-- An admitted execution starts in the invariant, at the start of an instruction or at the end of
code. -/
def Obligations.StartMeetsInvariants : Prop :=
  ∀ (p : Params) (t : Transaction) (s : State), ParamsOk p → PortOk t.portCosts →
    startExecution p t = .next s → s.Inv ∧ s.AtInstr ∧ s.halted = false

/-- Every step keeps the pc at the start of an instruction or at the end of code: immediate bytes are
never fetched as opcodes, by straight-line execution or by a jump (R105). -/
def Obligations.PcAtInstruction : Prop :=
  ∀ s t : State, s.Inv → s.AtInstr → core.step s = .next t → t.AtInstr

/-- R159: a step never raises gas; under the parameter constraint of R9 a step that does not halt lowers
it by at least 1; and so a running state halts, or meets a refused byte, within `gas + 1` steps. -/
def Obligations.ExecutionTerminates : Prop :=
  (∀ s t : State, core.step s = .next t → t.gas.toNat ≤ s.gas.toNat) ∧
  ∀ s : State, ProgressOk s.params → PortOk s.portCosts → s.halted = false →
    (∀ t : State, core.step s = .next t → t.halted = false → t.gas.toNat + 1 ≤ s.gas.toNat) ∧
    ∃ n, n ≤ s.gas.toNat + 1 ∧
      ((∃ t : State, core.run n s = .next t ∧ t.halted = true) ∨
        ∃ op : Byte, core.run n s = .refused (.refusedByte op))

/-- No step writes the Program, the parameters or the input (R40, R41, R42, R84, R147). -/
def Obligations.ProgramImmutable : Prop :=
  ∀ s t : State, core.step s = .next t →
    t.params = s.params ∧ t.code = s.code ∧ t.jd = s.jd ∧ t.inputData = s.inputData

/-- Memory length never shrinks and grows by whole 32-byte units (R36, R63); a step that grows it is
MLOAD, MSTORE, MSTORE8, RETURN or REVERT (R44). -/
def Obligations.MemoryOnlyGrows : Prop :=
  ∀ (i : Instr) (s t : State), exec i s = .next t →
    s.msize ≤ t.msize ∧ (s.msize % 32 = 0 → t.msize % 32 = 0) ∧
    (t.msize ≠ s.msize → i = .mload ∨ i = .mstore ∨ i = .mstore8 ∨ i = .ret ∨ i = .revert)

/-- Memory bytes change by MSTORE and MSTORE8 only, and only inside the bytes stored to (R44); a byte
that a growth added and no store wrote reads zero (R65). -/
def Obligations.OnlyStoresWriteMemory : Prop :=
  ∀ (i : Instr) (s t : State), s.Inv → exec i s = .next t → ∀ a : Nat,
    ¬ (i = .mstore ∧ (s.S 0).toNat ≤ a ∧ a < (s.S 0).toNat + 32) →
    ¬ (i = .mstore8 ∧ a = (s.S 0).toNat) →
    Memory.read t.mem a = Memory.read s.mem a ∧ (s.msize ≤ a → Memory.read t.mem a = 0)

/-- No instruction reads `input_data` (R42): a step with other input gives the same answer but for the
input it carries. -/
def Obligations.InputDataUnread : Prop :=
  ∀ (s : State) (d : List Byte),
    (∀ t, step s = .next t → step { s with inputData := d } = .next { t with inputData := d }) ∧
    (∀ r, step s = .fault r → step { s with inputData := d } = .fault r) ∧
    (∀ r, step s = .refused r → step { s with inputData := d } = .refused r)

/-- At most one storage-port transaction a step, appended to those before it (R82): a read by a
completing SLOAD, a write by a completing SSTORE, none by a step that faults (R81). -/
def Obligations.PortTransactions : Prop :=
  ∀ s t : State, s.halted = false → step s = .next t →
    t.portLog = s.portLog ∨
    (t.halted = false ∧ ∃ key value,
      (decode s.fetchBytes = .instr .sload ∧ t.portLog = s.portLog ++ [.read key value]) ∨
      (decode s.fetchBytes = .instr .sstore ∧ t.portLog = s.portLog ++ [.write key value]))

/-- `execute` (R45, R46): under R9 an admitted execution runs from its start state `s` for some `n` steps,
at most `gas_budget + 1`, to a halted state `u`, and `execute` answers the outcome triple of `u`, with
one of the nine codes of R441; or its run meets a refused byte, and `execute` answers that refusal. It
never answers a thrown fault. The bound of steps inside `execute` is the model's choice (log 14), and so
is the form of the refusal (log 7). -/
def Obligations.ExecuteReturns : Prop :=
  ∀ (p : Params) (t : Transaction), ProgressOk p → PortOk t.portCosts →
    t.code.length ≤ p.codeMax →
    ∃ s n, startExecution p t = .next s ∧ n ≤ t.gasBudget.toNat + 1 ∧
      ((∃ (u : State) (k : OutcomeKind),
        core.run n s = .next u ∧ u.halted = true ∧ u.status = haltedStatus k ∧
        execute p t = .next ⟨u.outcome, u.rdata, u.gas⟩ ∧
        u.outcome = outcomeCode k ∧ u.outcome.toNat ≤ 8 ∧ u.gas.toNat ≤ t.gasBudget.toNat) ∨
      ∃ op : Byte, core.run n s = .refused (.refusedByte op) ∧
        execute p t = .refused (.refusedByte op))

/-- R484: wherever an execution of a Program stands, restarting it warm with a new transaction of the
same code gives the state that a cold start gives. -/
def Obligations.WarmRestart : Prop :=
  ∀ (p : Params) (t t' : Transaction) (s u : State) (n : Nat), t'.code = t.code →
    startExecution p t = .next s → core.run n s = .next u →
    startExecution p t' = .next (restartExecution u t')
end

