-- ==== Sys2Proof/Laws/Bytes.lean ====
section
/-! SUPPORT. Byte strings and numbers: lengths, bounds and the round trips of the big-endian
functions (spec/20_memory.md R70). -/

namespace Sys2Proof

@[simp] theorem beBytes_length (n v : Nat) : (beBytes n v).length = n := by
  induction n generalizing v with
  | zero => rfl
  | succ n ih => simp [beBytes, ih]

theorem beNat_append (l : List Byte) (b : Byte) : beNat (l ++ [b]) = beNat l * 256 + b.toNat := by
  simp [beNat]

/-- Reading back the `n` bytes of a number gives it mod `2^(8n)`. -/
theorem beNat_beBytes (n v : Nat) : beNat (beBytes n v) = v % 2 ^ (8 * n) := by
  induction n generalizing v with
  | zero => simp [beBytes, beNat, Nat.mod_one]
  | succ n ih =>
    rw [beBytes, beNat_append, ih, BitVec.toNat_ofNat]
    have h : 2 ^ (8 * (n + 1)) = 256 * 2 ^ (8 * n) := by
      rw [Nat.mul_add, Nat.pow_add]; omega
    rw [h, Nat.mod_mul]
    omega

/-- A byte string of `n` bytes is a number below `2^(8n)`. -/
theorem beNat_lt (l : List Byte) : beNat l < 2 ^ (8 * l.length) := by
  induction l using List.reverseRecOn with
  | nil => simp [beNat]
  | append_singleton l b ih =>
    have h : 2 ^ (8 * (l.length + 1)) = 2 ^ (8 * l.length) * 256 := by
      rw [Nat.mul_add, Nat.pow_add]
    rw [beNat_append, List.length_append, List.length_singleton, h]
    have := b.isLt
    omega

/-- Writing back the number of a byte string gives the string. -/
theorem beBytes_beNat (l : List Byte) : beBytes l.length (beNat l) = l := by
  induction l using List.reverseRecOn with
  | nil => rfl
  | append_singleton l b ih =>
    have hb := b.isLt
    rw [List.length_append, List.length_singleton, beBytes, beNat_append]
    have h1 : (beNat l * 256 + b.toNat) / 256 = beNat l := by omega
    have h2 : BitVec.ofNat 8 (beNat l * 256 + b.toNat) = b := by
      apply BitVec.eq_of_toNat_eq
      simp only [BitVec.toNat_ofNat]
      omega
    rw [h1, h2, ih]

/-- Byte `k` of the `n` bytes of a number. -/
theorem beBytes_getElem (n v k : Nat) (h : k < n) :
    (beBytes n v)[k]'(by simpa using h) = BitVec.ofNat 8 (v / 256 ^ (n - 1 - k)) := by
  induction n generalizing v with
  | zero => omega
  | succ n ih =>
    by_cases hk : k < n
    · have e : n + 1 - 1 - k = (n - 1 - k) + 1 := by omega
      have := ih (v / 256) hk
      simp only [beBytes]
      rw [List.getElem_append_left (by simpa using hk), this, e, Nat.pow_succ',
        Nat.div_div_eq_div_mul]
    · have e : k = n := by omega
      subst e
      simp [beBytes, List.getElem_append_right]

@[simp] theorem takeZeroFilled_length (n : Nat) (l : List Byte) : (takeZeroFilled n l).length = n := by
  induction n generalizing l with
  | zero => simp [takeZeroFilled]
  | succ n ih => cases l <;> simp [takeZeroFilled, ih]

/-- The first `l.length` bytes of `l ++ rest` are `l`. -/
theorem takeZeroFilled_append (l rest : List Byte) : takeZeroFilled l.length (l ++ rest) = l := by
  induction l with
  | nil => simp [takeZeroFilled]
  | cons b l ih => simp [takeZeroFilled, ih]

/-- Byte `k` of a zero-filled read: the list's byte, or 0 past its end (R14, R104). -/
theorem takeZeroFilled_getD (n : Nat) (l : List Byte) (k : Nat) (h : k < n) :
    (takeZeroFilled n l).getD k 0 = l.getD k 0 := by
  induction n generalizing l k with
  | zero => omega
  | succ n ih =>
    cases l with
    | nil =>
      cases k with
      | zero => simp [takeZeroFilled]
      | succ k => simpa [takeZeroFilled] using ih [] k (by omega)
    | cons b l =>
      cases k with
      | zero => simp [takeZeroFilled]
      | succ k => simpa [takeZeroFilled] using ih l k (by omega)

/-- A zero-filled read as a list of bytes by offset. -/
theorem takeZeroFilled_eq_map (n : Nat) (l : List Byte) :
    takeZeroFilled n l = (List.range n).map fun k => l.getD k 0 := by
  apply List.ext_getElem (by simp)
  intro k h1 h2
  have hk : k < n := by simpa using h1
  have := takeZeroFilled_getD n l k hk
  rw [List.getD_eq_getElem _ _ h1] at this
  simpa using this

/-- An immediate read from the bytes of a number that fits is that number (R103). -/
theorem readImmediate_beBytes (n : Nat) (v : Word) (rest : List Byte)
    (h : v.toNat < 2 ^ (8 * n)) : readImmediate n (beBytes n v.toNat ++ rest) = v := by
  have e : takeZeroFilled n (beBytes n v.toNat ++ rest) = beBytes n v.toNat := by
    simpa using takeZeroFilled_append (beBytes n v.toNat) rest
  apply BitVec.eq_of_toNat_eq
  simp [readImmediate, e, beNat_beBytes, Nat.mod_eq_of_lt h]

/-- An immediate of at most 32 bytes is not narrowed. -/
theorem readImmediate_toNat (n : Nat) (hn : n ≤ 32) (rest : List Byte) :
    (readImmediate n rest).toNat = beNat (takeZeroFilled n rest) := by
  have h := beNat_lt (takeZeroFilled n rest)
  rw [takeZeroFilled_length] at h
  have h2 : 2 ^ (8 * n) ≤ 2 ^ 256 := Nat.pow_le_pow_right (by omega) (by omega)
  simp only [readImmediate, BitVec.toNat_ofNat]
  exact Nat.mod_eq_of_lt (by omega)

/-- Byte `j` of a number, counted from the least significant, as bits of the word. -/
theorem byte_of_word (x j : Nat) (hj : j < 32) :
    BitVec.ofNat 8 (x / 256 ^ j) = (u256 x).extractLsb' (8 * j) 8 := by
  apply BitVec.eq_of_getLsbD_eq
  intro i hi
  have e : (256 : Nat) ^ j = 2 ^ (8 * j) := by rw [Nat.pow_mul]
  rw [e, BitVec.getLsbD_extractLsb', BitVec.getLsbD_ofNat, BitVec.getLsbD_ofNat,
    Nat.testBit_div_two_pow]
  simp only [hi, decide_true, Bool.true_and, show 8 * j + i < 256 by omega]
  rw [Nat.add_comm]

/-- Byte `k` of 32 bytes, as bits of the word they spell. -/
theorem extract_beNat {l : List Byte} (hl : l.length = 32) {k : Nat} (hk : k < 32) :
    l[k]? = some ((u256 (beNat l)).extractLsb' (248 - 8 * k) 8) := by
  have h := beBytes_beNat l
  rw [hl] at h
  generalize beNat l = x at h
  subst h
  rw [List.getElem?_eq_getElem (by omega), beBytes_getElem _ _ _ hk, byte_of_word _ _ (by omega),
    show 8 * (32 - 1 - k) = 248 - 8 * k by omega]

end Sys2Proof
end

