-- ==== Sys2Proof/Laws/Decode.lean ====
section
/-! SUPPORT. The opcode map read row by row: what each row's instruction is, and everything `decode` can
answer (spec/30_encoding.md R110). -/

namespace Sys2Proof

/-- What a row of the opcode map says of the instruction it makes. -/
structure OpRow.Fits (r : OpRow) : Prop where
  small : r.op < 256
  opcode : ∀ v, Sys2Proof.opcode (r.make v) = BitVec.ofNat 8 r.op
  immediate : ∀ v, (r.make v).immediate = (r.imm, if r.imm = 0 then 0 else v)
  imm_le : r.imm ≤ 32
  imm : immediateBytes (BitVec.ofNat 8 r.op) = r.imm
  found : opRows.find? (fun x => x.op == r.op) = some r

/-- Every row fits, and no earlier row has its opcode byte. -/
theorem opRows_fits : ∀ r ∈ opRows, r.Fits := by
  intro r h
  simp only [opRows, arithmeticRows, compareRows, machineRows, pushRowsLow, pushRowsHigh, dupRows,
    swapRows, haltRows, List.mem_append, List.mem_cons, List.not_mem_nil, or_false, or_assoc] at h
  repeat'
    rcases h with rfl | h
    exact ⟨by decide, fun _ => rfl, fun _ => rfl, by decide, by decide, rfl⟩

/-- Every instruction is made by a row from its own immediate. -/
theorem instr_row (i : Instr) :
    ∃ r ∈ opRows, r.op = (opcode i).toNat ∧ i = r.make i.immediate.2 := by
  have h : ∃ r, opRows.find? (fun x => x.op == (opcode i).toNat) = some r ∧
      r.op = (opcode i).toNat ∧ i = r.make i.immediate.2 := by
    cases i <;> exact ⟨_, rfl, rfl, rfl⟩
  obtain ⟨r, hr, h⟩ := h
  exact ⟨r, List.mem_of_find?_eq_some hr, h⟩

/-- A byte of a row decodes to the row's instruction. -/
theorem decode_row {r : OpRow} (h : r ∈ opRows) {op : Byte} (hop : op.toNat = r.op)
    (rest : List Byte) :
    decode (op :: rest) = .instr (r.make (readImmediate r.imm rest)) := by
  have := (opRows_fits r h).found
  rw [← hop] at this
  simp only [decode, this]

/-- What decodes to an instruction begins with a row's byte. -/
theorem decode_instr {bytes : List Byte} {i : Instr} (h : decode bytes = .instr i) :
    ∃ op rest, ∃ r ∈ opRows, bytes = op :: rest ∧ op.toNat = r.op ∧
      i = r.make (readImmediate r.imm rest) := by
  rcases bytes with _ | ⟨op, rest⟩
  · cases h
  · simp only [decode] at h
    split at h
    · rename_i r hf
      refine ⟨op, rest, r, List.mem_of_find?_eq_some hf, rfl, ?_, ?_⟩
      · have := List.find?_some hf
        simp only [beq_iff_eq] at this
        exact this.symm
      · injection h with h
        exact h.symm
    · split at h <;> cases h

/-- An unassigned answer comes from a byte that is neither a row's nor refused. -/
theorem decode_unassigned {bytes : List Byte} {op : Byte} (h : decode bytes = .unassigned op) :
    ∃ rest, bytes = op :: rest ∧ op.toNat ∉ refusedBytes ∧ ∀ r ∈ opRows, r.op ≠ op.toNat := by
  rcases bytes with _ | ⟨b, rest⟩
  · cases h
  · simp only [decode] at h
    split at h
    · cases h
    · rename_i hf
      split at h
      · cases h
      · rename_i hr
        injection h with h
        subst h
        refine ⟨rest, rfl, by simpa using hr, fun r hm he => ?_⟩
        have := List.find?_eq_none.1 hf r hm
        simp [he] at this

/-- A refused answer comes from one of the refused bytes. -/
theorem decode_refused {bytes : List Byte} {op : Byte} (h : decode bytes = .refused op) :
    ∃ rest, bytes = op :: rest ∧ op.toNat ∈ refusedBytes := by
  rcases bytes with _ | ⟨b, rest⟩
  · cases h
  · simp only [decode] at h
    split at h
    · cases h
    · split at h
      · rename_i hr
        injection h with h
        subst h
        exact ⟨rest, rfl, by simpa using hr⟩
      · cases h

theorem decode_endOfCode {bytes : List Byte} (h : decode bytes = .endOfCode) : bytes = [] := by
  rcases bytes with _ | ⟨b, rest⟩
  · rfl
  · simp only [decode] at h
    split at h
    · cases h
    · split at h <;> cases h

/-- The immediate count of an instruction is that of its opcode byte (R102). -/
theorem immediateBytes_opcode (i : Instr) : immediateBytes (opcode i) = i.immediate.1 := by
  cases i <;> rfl

theorem length_eq (i : Instr) : i.length = 1 + immediateBytes (opcode i) := by
  rw [immediateBytes_opcode]; rfl

end Sys2Proof
end

