-- ==== Sys2Proof/Laws/Memory.lean ====
section
/-! SUPPORT. The laws of data memory: what a byte reads after a write, a zero fill or a growth, and
that every memory operation keeps the canonical form. -/

namespace Sys2Proof.Machine

theorem Memory.wf_nil : Memory.wf [] := by simp [Memory.wf]

theorem Memory.wf_cons (k : Nat) (v : Byte) (m : Memory) :
    Memory.wf ((k, v) :: m) ↔ (∀ c ∈ m, k < c.1) ∧ v ≠ 0 ∧ Memory.wf m := by
  simp only [Memory.wf, List.pairwise_cons, List.mem_cons, forall_eq_or_imp]
  tauto

/-- An address that no cell lists reads 0. -/
theorem Memory.read_of_forall_ne {m : Memory} {a : Nat} (h : ∀ c ∈ m, c.1 ≠ a) :
    Memory.read m a = 0 := by
  induction m with
  | nil => rfl
  | cons c m ih =>
    obtain ⟨k, v⟩ := c
    simp only [List.mem_cons, forall_eq_or_imp] at h
    simp [Memory.read, h.1, ih h.2]

/-! ### Writing -/

/-- Every cell after a write is the written address or a cell from before. -/
theorem Memory.mem_write {m : Memory} {a : Nat} {b : Byte} {c : Host.Cell}
    (h : c ∈ Memory.write m a b) : c.1 = a ∨ c ∈ m := by
  induction m with
  | nil =>
    simp only [Memory.write] at h
    split at h <;> simp_all
  | cons d m ih =>
    obtain ⟨k, v⟩ := d
    simp only [Memory.write] at h
    split at h
    · split at h
      · exact .inr h
      · simp only [List.mem_cons] at h
        rcases h with rfl | h | h
        · exact .inl rfl
        · exact .inr (by simp [h])
        · exact .inr (by simp [h])
    · split at h
      · split at h
        · exact .inr (by simp [h])
        · simp only [List.mem_cons] at h
          rcases h with rfl | h
          · exact .inl rfl
          · exact .inr (by simp [h])
      · simp only [List.mem_cons] at h
        rcases h with rfl | h
        · exact .inr (by simp)
        · rcases ih h with h | h
          · exact .inl h
          · exact .inr (by simp [h])

/-- A write keeps the canonical form. -/
theorem Memory.wf_write {m : Memory} (h : Memory.wf m) (a : Nat) (b : Byte) :
    Memory.wf (Memory.write m a b) := by
  induction m with
  | nil =>
    simp only [Memory.write]
    split
    · exact Memory.wf_nil
    · rw [Memory.wf_cons]; exact ⟨by simp, ‹_›, Memory.wf_nil⟩
  | cons c m ih =>
    obtain ⟨k, v⟩ := c
    obtain ⟨h1, h2, h3⟩ := (Memory.wf_cons k v m).mp h
    simp only [Memory.write]
    split
    · split
      · exact h
      · rw [Memory.wf_cons]
        refine ⟨fun c hc => ?_, ‹_›, h⟩
        rcases List.mem_cons.mp hc with rfl | hc
        · assumption
        · have := h1 c hc; omega
    · split
      · split
        · exact h3
        · rw [Memory.wf_cons]
          exact ⟨fun c hc => by have := h1 c hc; omega, ‹_›, h3⟩
      · rw [Memory.wf_cons]
        refine ⟨fun c hc => ?_, h2, ih h3⟩
        rcases Memory.mem_write hc with e | hc
        · omega
        · exact h1 c hc

/-- What a byte reads after a write: the byte written at its address, else what it read before. -/
theorem Memory.read_write {m : Memory} (h : Memory.wf m) (a : Nat) (b : Byte) (x : Nat) :
    Memory.read (Memory.write m a b) x = if x = a then b else Memory.read m x := by
  induction m with
  | nil =>
    simp only [Memory.write]
    by_cases hx : x = a
    · split <;> simp [Memory.read, *]
    · have : ¬ a = x := fun e => hx e.symm
      split <;> simp [Memory.read, this]
  | cons c m ih =>
    obtain ⟨k, v⟩ := c
    obtain ⟨h1, h2, h3⟩ := (Memory.wf_cons k v m).mp h
    have low : ∀ y, y < k → Memory.read m y = 0 := fun y hy =>
      Memory.read_of_forall_ne fun c hc => by have := h1 c hc; omega
    have same : Memory.read m k = 0 :=
      Memory.read_of_forall_ne fun c hc => by have := h1 c hc; omega
    have ih := ih h3
    simp only [Memory.write]
    split
    · rename_i hak
      by_cases hx : x = a
      · subst hx
        have := low x hak
        have hk : ¬ k = x := by omega
        split <;> simp_all [Memory.read]
      · have : ¬ a = x := fun e => hx e.symm
        split <;> simp_all [Memory.read]
    · split
      · rename_i _ e
        subst e
        by_cases hx : x = a
        · subst hx
          split <;> simp_all [Memory.read]
        · have : ¬ a = x := fun e => hx e.symm
          split <;> simp_all [Memory.read]
      · rename_i _ hne
        by_cases hk : k = x
        · subst hk
          have : ¬ k = a := fun e => hne e.symm
          simp [Memory.read, this]
        · simp [Memory.read, hk, ih]

/-! ### Writing several bytes -/

theorem Memory.wf_writeBytes {m : Memory} (h : Memory.wf m) (a : Nat) (bs : List Byte) :
    Memory.wf (Memory.writeBytes m a bs) := by
  induction bs generalizing m a with
  | nil => exact h
  | cons b bs ih => exact ih (Memory.wf_write h a b) (a + 1)

theorem Memory.mem_writeBytes {m : Memory} {a : Nat} {bs : List Byte} {c : Host.Cell}
    (h : c ∈ Memory.writeBytes m a bs) : (a ≤ c.1 ∧ c.1 < a + bs.length) ∨ c ∈ m := by
  induction bs generalizing m a with
  | nil => exact .inr h
  | cons b bs ih =>
    rcases ih h with h | h
    · exact .inl (by simp; omega)
    · rcases Memory.mem_write h with e | h
      · exact .inl (by simp; omega)
      · exact .inr h

/-- What a byte reads after several are written: the written byte inside the range, else what it read
before. -/
theorem Memory.read_writeBytes {m : Memory} (h : Memory.wf m) (a : Nat) (bs : List Byte) (x : Nat) :
    Memory.read (Memory.writeBytes m a bs) x =
      if a ≤ x ∧ x < a + bs.length then bs.getD (x - a) 0 else Memory.read m x := by
  induction bs generalizing m a with
  | nil =>
    have : ¬ (a ≤ x ∧ x < a + ([] : List Byte).length) := by simp
    rw [if_neg this]; rfl
  | cons b bs ih =>
    have := ih (Memory.wf_write h a b) (a + 1)
    rw [Memory.writeBytes, this, Memory.read_write h, List.length_cons]
    by_cases hx : x = a
    · subst hx
      simp
    · by_cases hr : a + 1 ≤ x ∧ x < a + 1 + bs.length
      · have hr' : a ≤ x ∧ x < a + (bs.length + 1) := by omega
        have e : x - a = (x - (a + 1)) + 1 := by omega
        simp only [if_pos hr, if_pos hr', e]
        simp
      · have hr' : ¬ (a ≤ x ∧ x < a + (bs.length + 1)) := by omega
        rw [if_neg hr, if_neg hr', if_neg hx]

/-! ### Zero fill and growth -/

theorem Memory.wf_zeroRange {m : Memory} (h : Memory.wf m) (lo hi : Nat) :
    Memory.wf (Memory.zeroRange m lo hi) :=
  ⟨h.1.filter _, fun c hc => h.2 c (List.mem_of_mem_filter hc)⟩

/-- A zero fill makes its range read 0 and leaves every other byte alone (R66). -/
theorem Memory.read_zeroRange (m : Memory) (lo hi x : Nat) :
    Memory.read (Memory.zeroRange m lo hi) x =
      if lo ≤ x ∧ x < hi then 0 else Memory.read m x := by
  induction m with
  | nil => simp [Memory.zeroRange, Memory.read]
  | cons c m ih =>
    obtain ⟨k, v⟩ := c
    simp only [Memory.zeroRange] at ih
    by_cases hk : k < lo ∨ hi ≤ k
    · have e : (decide (k < lo) || decide (hi ≤ k)) = true := by simpa using hk
      simp only [Memory.zeroRange, List.filter_cons, e, if_true, Memory.read]
      rw [ih]
      by_cases hx : k = x
      · subst hx
        have : ¬ (lo ≤ k ∧ k < hi) := by omega
        simp [this]
      · simp [hx]
    · have e : (decide (k < lo) || decide (hi ≤ k)) = false := by simpa using hk
      simp only [Memory.zeroRange, List.filter_cons, e, Memory.read]
      rw [if_neg (by simp), ih]
      by_cases hx : k = x
      · subst hx
        have : lo ≤ k ∧ k < hi := by omega
        simp [this]
      · simp [hx]

/-- A growth past every listed cell changes no cell. -/
theorem Memory.zeroRange_eq_self {m : Memory} {lo : Nat} (h : ∀ c ∈ m, c.1 < lo) (hi : Nat) :
    Memory.zeroRange m lo hi = m := by
  rw [Memory.zeroRange, List.filter_eq_self]
  intro c hc
  simp [h c hc]

/-! ### Reading several bytes -/

@[simp] theorem Memory.readBytes_length (m : Memory) (a n : Nat) :
    (Memory.readBytes m a n).length = n := by simp [Memory.readBytes]

@[simp] theorem Memory.readBytes_zero (m : Memory) (a : Nat) : Memory.readBytes m a 0 = [] := rfl

/-- A range read back after it was written gives the bytes written. -/
theorem Memory.readBytes_writeBytes {m : Memory} (h : Memory.wf m) (a : Nat) (bs : List Byte) :
    Memory.readBytes (Memory.writeBytes m a bs) a bs.length = bs := by
  apply List.ext_getElem (by simp)
  intro k h1 h2
  simp only [Memory.readBytes, List.getElem_map, List.getElem_range, Memory.read_writeBytes h]
  rw [if_pos (by omega), Nat.add_sub_cancel_left]
  exact List.getD_eq_getElem _ _ h2

/-- Two memories that read alike give the same bytes. -/
theorem Memory.readBytes_congr {m m' : Memory} (h : ∀ x, Memory.read m x = Memory.read m' x)
    (a n : Nat) : Memory.readBytes m a n = Memory.readBytes m' a n := by
  simp [Memory.readBytes, h]

/-! ### MEM_COST (R9) -/

theorem freeMemCost_mono {a b : Nat} (h : a ≤ b) : freeMemCost a ≤ freeMemCost b := by
  induction b with
  | zero => simp_all
  | succ b ih =>
    rcases Nat.lt_or_ge b a with h' | h'
    · have : a = b + 1 := by omega
      simp [this]
    · exact Nat.le_trans (ih h') (Nat.le_add_right _ _)

/-- MEM_COST is 0 at 0, whichever cost function is chosen (R9). -/
theorem memCostOf_zero (c : MemCost) : memCostOf c 0 = 0 := by
  cases c <;> simp [memCostOf, freeMemCost]

/-- MEM_COST is non-decreasing, whichever cost function is chosen (R9). -/
theorem memCostOf_mono (c : MemCost) {a b : Nat} (h : a ≤ b) : memCostOf c a ≤ memCostOf c b := by
  cases c with
  | quadratic l d =>
    exact Nat.add_le_add (Nat.mul_le_mul_left l h)
      (Nat.div_le_div_right (Nat.mul_le_mul h h))
  | free => exact freeMemCost_mono h

/-! ### `ceil32` (R10) -/

theorem ceil32_mod (n : Nat) : ceil32 n % 32 = 0 := by simp [ceil32]

theorem le_ceil32 (n : Nat) : n ≤ ceil32 n := by simp only [ceil32]; omega

theorem ceil32_lt (n : Nat) : ceil32 n < n + 32 := by simp only [ceil32]; omega

/-- Rounding up does not pass a ceiling that is a multiple of 32 (R66). -/
theorem ceil32_le {n m : Nat} (h : n ≤ m) (hm : m % 32 = 0) : ceil32 n ≤ m := by
  simp only [ceil32]; omega

/-- Byte `k` of a stored word, most significant first (R70). -/
theorem wordBytes_getElem? (v : Word) {k : Nat} (hk : k < 32) :
    (wordBytes v)[k]? = some (v.extractLsb' (248 - 8 * k) 8) := by
  have hl : (wordBytes v).length = 32 := by rw [wordBytes, beBytes_length]
  rw [extract_beNat hl hk, wordBytes, beNat_beBytes, Nat.mod_eq_of_lt v.isLt, u256,
    BitVec.ofNat_toNat, BitVec.setWidth_eq]

/-- Bits `255-8k : 248-8k` of the word at `a` are the byte at `a + k` (R70, R71). -/
theorem memWord_byte (s : State) (a : Nat) {k : Nat} (hk : k < 32) :
    (s.memWord a).extractLsb' (248 - 8 * k) 8 = Memory.read s.mem (a + k) := by
  have e : (Memory.readBytes s.mem a 32)[k]? = some (Memory.read s.mem (a + k)) := by
    rw [Memory.readBytes, List.getElem?_map, List.getElem?_range hk, Option.map_some]
  rw [extract_beNat (Memory.readBytes_length _ _ _) hk, Option.some_inj] at e
  rw [State.memWord, e]

end Sys2Proof.Machine
end

