-- ==== Sys2Proof/Laws/State.lean ====
section
/-! SUPPORT. What each update of the state does to each of its fields: one lemma per field per update,
so that no proof unfolds an update. -/

namespace Sys2Proof.Machine

variable (s : State)

/-! ### `spend` -/

@[simp] theorem State.spend_params (n : Nat) : (s.spend n).params = s.params := rfl
@[simp] theorem State.spend_code (n : Nat) : (s.spend n).code = s.code := rfl
@[simp] theorem State.spend_jd (n : Nat) : (s.spend n).jd = s.jd := rfl
@[simp] theorem State.spend_inputData (n : Nat) : (s.spend n).inputData = s.inputData := rfl
@[simp] theorem State.spend_status (n : Nat) : (s.spend n).status = s.status := rfl
@[simp] theorem State.spend_pc (n : Nat) : (s.spend n).pc = s.pc := rfl
@[simp] theorem State.spend_stack (n : Nat) : (s.spend n).stack = s.stack := rfl
@[simp] theorem State.spend_mem (n : Nat) : (s.spend n).mem = s.mem := rfl
@[simp] theorem State.spend_msize (n : Nat) : (s.spend n).msize = s.msize := rfl
@[simp] theorem State.spend_gas (n : Nat) : (s.spend n).gas = s.gas - BitVec.ofNat 64 n := rfl
@[simp] theorem State.spend_rdata (n : Nat) : (s.spend n).rdata = s.rdata := rfl
@[simp] theorem State.spend_portLog (n : Nat) : (s.spend n).portLog = s.portLog := rfl
@[simp] theorem State.spend_portCosts (n : Nat) : (s.spend n).portCosts = s.portCosts := rfl
@[simp] theorem State.spend_portValues (n : Nat) : (s.spend n).portValues = s.portValues := rfl
@[simp] theorem State.spend_portDraws (n : Nat) : (s.spend n).portDraws = s.portDraws := rfl

/-! ### `finish` -/

@[simp] theorem State.finish_params (k : OutcomeKind) (d : List Byte) :
    (s.finish k d).params = s.params := rfl
@[simp] theorem State.finish_code (k : OutcomeKind) (d : List Byte) :
    (s.finish k d).code = s.code := rfl
@[simp] theorem State.finish_jd (k : OutcomeKind) (d : List Byte) : (s.finish k d).jd = s.jd := rfl
@[simp] theorem State.finish_inputData (k : OutcomeKind) (d : List Byte) :
    (s.finish k d).inputData = s.inputData := rfl
@[simp] theorem State.finish_status (k : OutcomeKind) (d : List Byte) :
    (s.finish k d).status = haltedStatus k := rfl
@[simp] theorem State.finish_pc (k : OutcomeKind) (d : List Byte) : (s.finish k d).pc = s.pc := rfl
@[simp] theorem State.finish_stack (k : OutcomeKind) (d : List Byte) :
    (s.finish k d).stack = s.stack := rfl
@[simp] theorem State.finish_mem (k : OutcomeKind) (d : List Byte) :
    (s.finish k d).mem = s.mem := rfl
@[simp] theorem State.finish_msize (k : OutcomeKind) (d : List Byte) :
    (s.finish k d).msize = s.msize := rfl
@[simp] theorem State.finish_gas (k : OutcomeKind) (d : List Byte) :
    (s.finish k d).gas = s.gas := rfl
@[simp] theorem State.finish_rdata (k : OutcomeKind) (d : List Byte) :
    (s.finish k d).rdata = d := rfl
@[simp] theorem State.finish_portLog (k : OutcomeKind) (d : List Byte) :
    (s.finish k d).portLog = s.portLog := rfl
@[simp] theorem State.finish_portCosts (k : OutcomeKind) (d : List Byte) :
    (s.finish k d).portCosts = s.portCosts := rfl
@[simp] theorem State.finish_portValues (k : OutcomeKind) (d : List Byte) :
    (s.finish k d).portValues = s.portValues := rfl
@[simp] theorem State.finish_portDraws (k : OutcomeKind) (d : List Byte) :
    (s.finish k d).portDraws = s.portDraws := rfl

/-! ### `writeMem` -/

@[simp] theorem State.writeMem_params (a : Nat) (bs : List Byte) :
    (s.writeMem a bs).params = s.params := rfl
@[simp] theorem State.writeMem_code (a : Nat) (bs : List Byte) :
    (s.writeMem a bs).code = s.code := rfl
@[simp] theorem State.writeMem_jd (a : Nat) (bs : List Byte) : (s.writeMem a bs).jd = s.jd := rfl
@[simp] theorem State.writeMem_inputData (a : Nat) (bs : List Byte) :
    (s.writeMem a bs).inputData = s.inputData := rfl
@[simp] theorem State.writeMem_status (a : Nat) (bs : List Byte) :
    (s.writeMem a bs).status = s.status := rfl
@[simp] theorem State.writeMem_pc (a : Nat) (bs : List Byte) : (s.writeMem a bs).pc = s.pc := rfl
@[simp] theorem State.writeMem_stack (a : Nat) (bs : List Byte) :
    (s.writeMem a bs).stack = s.stack := rfl
@[simp] theorem State.writeMem_mem (a : Nat) (bs : List Byte) :
    (s.writeMem a bs).mem = Memory.writeBytes s.mem a bs := rfl
@[simp] theorem State.writeMem_msize (a : Nat) (bs : List Byte) :
    (s.writeMem a bs).msize = s.msize := rfl
@[simp] theorem State.writeMem_gas (a : Nat) (bs : List Byte) : (s.writeMem a bs).gas = s.gas := rfl
@[simp] theorem State.writeMem_rdata (a : Nat) (bs : List Byte) :
    (s.writeMem a bs).rdata = s.rdata := rfl
@[simp] theorem State.writeMem_portLog (a : Nat) (bs : List Byte) :
    (s.writeMem a bs).portLog = s.portLog := rfl
@[simp] theorem State.writeMem_portCosts (a : Nat) (bs : List Byte) :
    (s.writeMem a bs).portCosts = s.portCosts := rfl
@[simp] theorem State.writeMem_portValues (a : Nat) (bs : List Byte) :
    (s.writeMem a bs).portValues = s.portValues := rfl
@[simp] theorem State.writeMem_portDraws (a : Nat) (bs : List Byte) :
    (s.writeMem a bs).portDraws = s.portDraws := rfl

/-! ### `grow` -/

@[simp] theorem State.grow_params (n : Nat) : (s.grow n).params = s.params := rfl
@[simp] theorem State.grow_code (n : Nat) : (s.grow n).code = s.code := rfl
@[simp] theorem State.grow_jd (n : Nat) : (s.grow n).jd = s.jd := rfl
@[simp] theorem State.grow_inputData (n : Nat) : (s.grow n).inputData = s.inputData := rfl
@[simp] theorem State.grow_status (n : Nat) : (s.grow n).status = s.status := rfl
@[simp] theorem State.grow_pc (n : Nat) : (s.grow n).pc = s.pc := rfl
@[simp] theorem State.grow_stack (n : Nat) : (s.grow n).stack = s.stack := rfl
@[simp] theorem State.grow_mem (n : Nat) : (s.grow n).mem = Memory.zeroRange s.mem s.msize n := rfl
@[simp] theorem State.grow_msize (n : Nat) : (s.grow n).msize = n := rfl
@[simp] theorem State.grow_gas (n : Nat) : (s.grow n).gas = s.gas := rfl
@[simp] theorem State.grow_rdata (n : Nat) : (s.grow n).rdata = s.rdata := rfl
@[simp] theorem State.grow_portLog (n : Nat) : (s.grow n).portLog = s.portLog := rfl
@[simp] theorem State.grow_portCosts (n : Nat) : (s.grow n).portCosts = s.portCosts := rfl
@[simp] theorem State.grow_portValues (n : Nat) : (s.grow n).portValues = s.portValues := rfl
@[simp] theorem State.grow_portDraws (n : Nat) : (s.grow n).portDraws = s.portDraws := rfl

/-! ### `setPc` -/

@[simp] theorem State.setPc_params (t : Nat) : (s.setPc t).params = s.params := rfl
@[simp] theorem State.setPc_code (t : Nat) : (s.setPc t).code = s.code := rfl
@[simp] theorem State.setPc_jd (t : Nat) : (s.setPc t).jd = s.jd := rfl
@[simp] theorem State.setPc_inputData (t : Nat) : (s.setPc t).inputData = s.inputData := rfl
@[simp] theorem State.setPc_status (t : Nat) : (s.setPc t).status = s.status := rfl
@[simp] theorem State.setPc_pc (t : Nat) : (s.setPc t).pc = BitVec.ofNat 32 t := rfl
@[simp] theorem State.setPc_stack (t : Nat) : (s.setPc t).stack = s.stack := rfl
@[simp] theorem State.setPc_mem (t : Nat) : (s.setPc t).mem = s.mem := rfl
@[simp] theorem State.setPc_msize (t : Nat) : (s.setPc t).msize = s.msize := rfl
@[simp] theorem State.setPc_gas (t : Nat) : (s.setPc t).gas = s.gas := rfl
@[simp] theorem State.setPc_rdata (t : Nat) : (s.setPc t).rdata = s.rdata := rfl
@[simp] theorem State.setPc_portLog (t : Nat) : (s.setPc t).portLog = s.portLog := rfl
@[simp] theorem State.setPc_portCosts (t : Nat) : (s.setPc t).portCosts = s.portCosts := rfl
@[simp] theorem State.setPc_portValues (t : Nat) : (s.setPc t).portValues = s.portValues := rfl
@[simp] theorem State.setPc_portDraws (t : Nat) : (s.setPc t).portDraws = s.portDraws := rfl

/-! ### `advance` -/

@[simp] theorem State.advance_params (n : Nat) : (s.advance n).params = s.params := rfl
@[simp] theorem State.advance_code (n : Nat) : (s.advance n).code = s.code := rfl
@[simp] theorem State.advance_jd (n : Nat) : (s.advance n).jd = s.jd := rfl
@[simp] theorem State.advance_inputData (n : Nat) : (s.advance n).inputData = s.inputData := rfl
@[simp] theorem State.advance_status (n : Nat) : (s.advance n).status = s.status := rfl
@[simp] theorem State.advance_pc (n : Nat) :
    (s.advance n).pc = BitVec.ofNat 32 (min (s.pc.toNat + n) s.code.length) := rfl
@[simp] theorem State.advance_stack (n : Nat) : (s.advance n).stack = s.stack := rfl
@[simp] theorem State.advance_mem (n : Nat) : (s.advance n).mem = s.mem := rfl
@[simp] theorem State.advance_msize (n : Nat) : (s.advance n).msize = s.msize := rfl
@[simp] theorem State.advance_gas (n : Nat) : (s.advance n).gas = s.gas := rfl
@[simp] theorem State.advance_rdata (n : Nat) : (s.advance n).rdata = s.rdata := rfl
@[simp] theorem State.advance_portLog (n : Nat) : (s.advance n).portLog = s.portLog := rfl
@[simp] theorem State.advance_portCosts (n : Nat) : (s.advance n).portCosts = s.portCosts := rfl
@[simp] theorem State.advance_portValues (n : Nat) : (s.advance n).portValues = s.portValues := rfl
@[simp] theorem State.advance_portDraws (n : Nat) : (s.advance n).portDraws = s.portDraws := rfl

/-! ### `setStack` -/

@[simp] theorem State.setStack_params (l : List Word) : (s.setStack l).params = s.params := rfl
@[simp] theorem State.setStack_code (l : List Word) : (s.setStack l).code = s.code := rfl
@[simp] theorem State.setStack_jd (l : List Word) : (s.setStack l).jd = s.jd := rfl
@[simp] theorem State.setStack_inputData (l : List Word) :
    (s.setStack l).inputData = s.inputData := rfl
@[simp] theorem State.setStack_status (l : List Word) : (s.setStack l).status = s.status := rfl
@[simp] theorem State.setStack_pc (l : List Word) : (s.setStack l).pc = s.pc := rfl
@[simp] theorem State.setStack_stack (l : List Word) : (s.setStack l).stack = l := rfl
@[simp] theorem State.setStack_mem (l : List Word) : (s.setStack l).mem = s.mem := rfl
@[simp] theorem State.setStack_msize (l : List Word) : (s.setStack l).msize = s.msize := rfl
@[simp] theorem State.setStack_gas (l : List Word) : (s.setStack l).gas = s.gas := rfl
@[simp] theorem State.setStack_rdata (l : List Word) : (s.setStack l).rdata = s.rdata := rfl
@[simp] theorem State.setStack_portLog (l : List Word) : (s.setStack l).portLog = s.portLog := rfl
@[simp] theorem State.setStack_portCosts (l : List Word) :
    (s.setStack l).portCosts = s.portCosts := rfl
@[simp] theorem State.setStack_portValues (l : List Word) :
    (s.setStack l).portValues = s.portValues := rfl
@[simp] theorem State.setStack_portDraws (l : List Word) :
    (s.setStack l).portDraws = s.portDraws := rfl

/-! ### `dropPush` -/

@[simp] theorem State.dropPush_params (k : Nat) (v : Word) :
    (s.dropPush k v).params = s.params := rfl
@[simp] theorem State.dropPush_code (k : Nat) (v : Word) : (s.dropPush k v).code = s.code := rfl
@[simp] theorem State.dropPush_jd (k : Nat) (v : Word) : (s.dropPush k v).jd = s.jd := rfl
@[simp] theorem State.dropPush_inputData (k : Nat) (v : Word) :
    (s.dropPush k v).inputData = s.inputData := rfl
@[simp] theorem State.dropPush_status (k : Nat) (v : Word) :
    (s.dropPush k v).status = s.status := rfl
@[simp] theorem State.dropPush_pc (k : Nat) (v : Word) : (s.dropPush k v).pc = s.pc := rfl
@[simp] theorem State.dropPush_stack (k : Nat) (v : Word) :
    (s.dropPush k v).stack = v :: s.stack.drop k := rfl
@[simp] theorem State.dropPush_mem (k : Nat) (v : Word) : (s.dropPush k v).mem = s.mem := rfl
@[simp] theorem State.dropPush_msize (k : Nat) (v : Word) : (s.dropPush k v).msize = s.msize := rfl
@[simp] theorem State.dropPush_gas (k : Nat) (v : Word) : (s.dropPush k v).gas = s.gas := rfl
@[simp] theorem State.dropPush_rdata (k : Nat) (v : Word) : (s.dropPush k v).rdata = s.rdata := rfl
@[simp] theorem State.dropPush_portLog (k : Nat) (v : Word) :
    (s.dropPush k v).portLog = s.portLog := rfl
@[simp] theorem State.dropPush_portCosts (k : Nat) (v : Word) :
    (s.dropPush k v).portCosts = s.portCosts := rfl
@[simp] theorem State.dropPush_portValues (k : Nat) (v : Word) :
    (s.dropPush k v).portValues = s.portValues := rfl
@[simp] theorem State.dropPush_portDraws (k : Nat) (v : Word) :
    (s.dropPush k v).portDraws = s.portDraws := rfl

/-! ### `drop` -/

@[simp] theorem State.drop_params (k : Nat) : (s.drop k).params = s.params := rfl
@[simp] theorem State.drop_code (k : Nat) : (s.drop k).code = s.code := rfl
@[simp] theorem State.drop_jd (k : Nat) : (s.drop k).jd = s.jd := rfl
@[simp] theorem State.drop_inputData (k : Nat) : (s.drop k).inputData = s.inputData := rfl
@[simp] theorem State.drop_status (k : Nat) : (s.drop k).status = s.status := rfl
@[simp] theorem State.drop_pc (k : Nat) : (s.drop k).pc = s.pc := rfl
@[simp] theorem State.drop_stack (k : Nat) : (s.drop k).stack = s.stack.drop k := rfl
@[simp] theorem State.drop_mem (k : Nat) : (s.drop k).mem = s.mem := rfl
@[simp] theorem State.drop_msize (k : Nat) : (s.drop k).msize = s.msize := rfl
@[simp] theorem State.drop_gas (k : Nat) : (s.drop k).gas = s.gas := rfl
@[simp] theorem State.drop_rdata (k : Nat) : (s.drop k).rdata = s.rdata := rfl
@[simp] theorem State.drop_portLog (k : Nat) : (s.drop k).portLog = s.portLog := rfl
@[simp] theorem State.drop_portCosts (k : Nat) : (s.drop k).portCosts = s.portCosts := rfl
@[simp] theorem State.drop_portValues (k : Nat) : (s.drop k).portValues = s.portValues := rfl
@[simp] theorem State.drop_portDraws (k : Nat) : (s.drop k).portDraws = s.portDraws := rfl

/-! ### `swap` -/

@[simp] theorem State.swap_params (k : Nat) : (s.swap k).params = s.params := rfl
@[simp] theorem State.swap_code (k : Nat) : (s.swap k).code = s.code := rfl
@[simp] theorem State.swap_jd (k : Nat) : (s.swap k).jd = s.jd := rfl
@[simp] theorem State.swap_inputData (k : Nat) : (s.swap k).inputData = s.inputData := rfl
@[simp] theorem State.swap_status (k : Nat) : (s.swap k).status = s.status := rfl
@[simp] theorem State.swap_pc (k : Nat) : (s.swap k).pc = s.pc := rfl
@[simp] theorem State.swap_stack (k : Nat) :
    (s.swap k).stack = (s.stack.set 0 (s.S k)).set k (s.S 0) := rfl
@[simp] theorem State.swap_mem (k : Nat) : (s.swap k).mem = s.mem := rfl
@[simp] theorem State.swap_msize (k : Nat) : (s.swap k).msize = s.msize := rfl
@[simp] theorem State.swap_gas (k : Nat) : (s.swap k).gas = s.gas := rfl
@[simp] theorem State.swap_rdata (k : Nat) : (s.swap k).rdata = s.rdata := rfl
@[simp] theorem State.swap_portLog (k : Nat) : (s.swap k).portLog = s.portLog := rfl
@[simp] theorem State.swap_portCosts (k : Nat) : (s.swap k).portCosts = s.portCosts := rfl
@[simp] theorem State.swap_portValues (k : Nat) : (s.swap k).portValues = s.portValues := rfl
@[simp] theorem State.swap_portDraws (k : Nat) : (s.swap k).portDraws = s.portDraws := rfl

/-! ### `logPort` -/

@[simp] theorem State.logPort_params (x : PortTransaction) : (s.logPort x).params = s.params := rfl
@[simp] theorem State.logPort_code (x : PortTransaction) : (s.logPort x).code = s.code := rfl
@[simp] theorem State.logPort_jd (x : PortTransaction) : (s.logPort x).jd = s.jd := rfl
@[simp] theorem State.logPort_inputData (x : PortTransaction) :
    (s.logPort x).inputData = s.inputData := rfl
@[simp] theorem State.logPort_status (x : PortTransaction) : (s.logPort x).status = s.status := rfl
@[simp] theorem State.logPort_pc (x : PortTransaction) : (s.logPort x).pc = s.pc := rfl
@[simp] theorem State.logPort_stack (x : PortTransaction) : (s.logPort x).stack = s.stack := rfl
@[simp] theorem State.logPort_mem (x : PortTransaction) : (s.logPort x).mem = s.mem := rfl
@[simp] theorem State.logPort_msize (x : PortTransaction) : (s.logPort x).msize = s.msize := rfl
@[simp] theorem State.logPort_gas (x : PortTransaction) : (s.logPort x).gas = s.gas := rfl
@[simp] theorem State.logPort_rdata (x : PortTransaction) : (s.logPort x).rdata = s.rdata := rfl
@[simp] theorem State.logPort_portLog (x : PortTransaction) :
    (s.logPort x).portLog = s.portLog ++ [x] := rfl
@[simp] theorem State.logPort_portCosts (x : PortTransaction) :
    (s.logPort x).portCosts = s.portCosts := rfl
@[simp] theorem State.logPort_portValues (x : PortTransaction) :
    (s.logPort x).portValues = s.portValues := rfl
@[simp] theorem State.logPort_portDraws (x : PortTransaction) :
    (s.logPort x).portDraws = s.portDraws := rfl

/-! ### `takeCost` -/

@[simp] theorem State.takeCost_params : (s.takeCost).params = s.params := by
  cases h : s.portCosts <;> simp [State.takeCost, h]
@[simp] theorem State.takeCost_code : (s.takeCost).code = s.code := by
  cases h : s.portCosts <;> simp [State.takeCost, h]
@[simp] theorem State.takeCost_jd : (s.takeCost).jd = s.jd := by
  cases h : s.portCosts <;> simp [State.takeCost, h]
@[simp] theorem State.takeCost_inputData : (s.takeCost).inputData = s.inputData := by
  cases h : s.portCosts <;> simp [State.takeCost, h]
@[simp] theorem State.takeCost_status : (s.takeCost).status = s.status := by
  cases h : s.portCosts <;> simp [State.takeCost, h]
@[simp] theorem State.takeCost_pc : (s.takeCost).pc = s.pc := by
  cases h : s.portCosts <;> simp [State.takeCost, h]
@[simp] theorem State.takeCost_stack : (s.takeCost).stack = s.stack := by
  cases h : s.portCosts <;> simp [State.takeCost, h]
@[simp] theorem State.takeCost_mem : (s.takeCost).mem = s.mem := by
  cases h : s.portCosts <;> simp [State.takeCost, h]
@[simp] theorem State.takeCost_msize : (s.takeCost).msize = s.msize := by
  cases h : s.portCosts <;> simp [State.takeCost, h]
@[simp] theorem State.takeCost_gas : (s.takeCost).gas = s.gas := by
  cases h : s.portCosts <;> simp [State.takeCost, h]
@[simp] theorem State.takeCost_rdata : (s.takeCost).rdata = s.rdata := by
  cases h : s.portCosts <;> simp [State.takeCost, h]
@[simp] theorem State.takeCost_portLog : (s.takeCost).portLog = s.portLog := by
  cases h : s.portCosts <;> simp [State.takeCost, h]
@[simp] theorem State.takeCost_portCosts : (s.takeCost).portCosts = s.portCosts.tail := by
  cases h : s.portCosts <;> simp [State.takeCost, h]
@[simp] theorem State.takeCost_portValues : (s.takeCost).portValues = s.portValues := by
  cases h : s.portCosts <;> simp [State.takeCost, h]
@[simp] theorem State.takeCost_portDraws :
    (s.takeCost).portDraws = if s.portCosts = [] then s.portDraws + 1 else s.portDraws := by
  cases h : s.portCosts <;> simp [State.takeCost, h]

/-! ### `takeValue` -/

@[simp] theorem State.takeValue_params : (s.takeValue).params = s.params := by
  cases h : s.portValues <;> simp [State.takeValue, h]
@[simp] theorem State.takeValue_code : (s.takeValue).code = s.code := by
  cases h : s.portValues <;> simp [State.takeValue, h]
@[simp] theorem State.takeValue_jd : (s.takeValue).jd = s.jd := by
  cases h : s.portValues <;> simp [State.takeValue, h]
@[simp] theorem State.takeValue_inputData : (s.takeValue).inputData = s.inputData := by
  cases h : s.portValues <;> simp [State.takeValue, h]
@[simp] theorem State.takeValue_status : (s.takeValue).status = s.status := by
  cases h : s.portValues <;> simp [State.takeValue, h]
@[simp] theorem State.takeValue_pc : (s.takeValue).pc = s.pc := by
  cases h : s.portValues <;> simp [State.takeValue, h]
@[simp] theorem State.takeValue_stack : (s.takeValue).stack = s.stack := by
  cases h : s.portValues <;> simp [State.takeValue, h]
@[simp] theorem State.takeValue_mem : (s.takeValue).mem = s.mem := by
  cases h : s.portValues <;> simp [State.takeValue, h]
@[simp] theorem State.takeValue_msize : (s.takeValue).msize = s.msize := by
  cases h : s.portValues <;> simp [State.takeValue, h]
@[simp] theorem State.takeValue_gas : (s.takeValue).gas = s.gas := by
  cases h : s.portValues <;> simp [State.takeValue, h]
@[simp] theorem State.takeValue_rdata : (s.takeValue).rdata = s.rdata := by
  cases h : s.portValues <;> simp [State.takeValue, h]
@[simp] theorem State.takeValue_portLog : (s.takeValue).portLog = s.portLog := by
  cases h : s.portValues <;> simp [State.takeValue, h]
@[simp] theorem State.takeValue_portCosts : (s.takeValue).portCosts = s.portCosts := by
  cases h : s.portValues <;> simp [State.takeValue, h]
@[simp] theorem State.takeValue_portValues : (s.takeValue).portValues = s.portValues.tail := by
  cases h : s.portValues <;> simp [State.takeValue, h]
@[simp] theorem State.takeValue_portDraws :
    (s.takeValue).portDraws = if s.portValues = [] then s.portDraws + 1 else s.portDraws := by
  cases h : s.portValues <;> simp [State.takeValue, h]

/-! ### `placeCode` -/

@[simp] theorem State.placeCode_params (bs : List Byte) : (s.placeCode bs).params = s.params := rfl
@[simp] theorem State.placeCode_code (bs : List Byte) :
    (s.placeCode bs).code = placeBytes s.code s.pc.toNat bs := rfl
@[simp] theorem State.placeCode_jd (bs : List Byte) :
    (s.placeCode bs).jd = buildJD (placeBytes s.code s.pc.toNat bs) := rfl
@[simp] theorem State.placeCode_inputData (bs : List Byte) :
    (s.placeCode bs).inputData = s.inputData := rfl
@[simp] theorem State.placeCode_status (bs : List Byte) :
    (s.placeCode bs).status = if s.halted then runningStatus else s.status := rfl
@[simp] theorem State.placeCode_pc (bs : List Byte) : (s.placeCode bs).pc = s.pc := rfl
@[simp] theorem State.placeCode_stack (bs : List Byte) : (s.placeCode bs).stack = s.stack := rfl
@[simp] theorem State.placeCode_mem (bs : List Byte) : (s.placeCode bs).mem = s.mem := rfl
@[simp] theorem State.placeCode_msize (bs : List Byte) : (s.placeCode bs).msize = s.msize := rfl
@[simp] theorem State.placeCode_gas (bs : List Byte) : (s.placeCode bs).gas = s.gas := rfl
@[simp] theorem State.placeCode_rdata (bs : List Byte) :
    (s.placeCode bs).rdata = if s.halted then [] else s.rdata := rfl
@[simp] theorem State.placeCode_portLog (bs : List Byte) :
    (s.placeCode bs).portLog = s.portLog := rfl
@[simp] theorem State.placeCode_portCosts (bs : List Byte) :
    (s.placeCode bs).portCosts = s.portCosts := rfl
@[simp] theorem State.placeCode_portValues (bs : List Byte) :
    (s.placeCode bs).portValues = s.portValues := rfl
@[simp] theorem State.placeCode_portDraws (bs : List Byte) :
    (s.placeCode bs).portDraws = s.portDraws := rfl

/-! ### The derived views -/

@[simp] theorem State.halted_finish (k : OutcomeKind) (d : List Byte) :
    (s.finish k d).halted = true := by
  simp only [State.halted, State.finish_status]; cases k <;> decide

@[simp] theorem State.outcome_finish (k : OutcomeKind) (d : List Byte) :
    (s.finish k d).outcome = outcomeCode k := by
  simp only [State.outcome, State.finish_status]; cases k <;> decide

theorem State.depth_eq : s.depth = s.stack.length := rfl

theorem State.S_cons_zero (a : Word) (l : List Word) (h : s.stack = a :: l) : s.S 0 = a := by
  simp [State.S, h]

theorem State.S_cons_one (a b : Word) (l : List Word) (h : s.stack = a :: b :: l) : s.S 1 = b := by
  simp [State.S, h]

theorem State.S_cons_two (a b c : Word) (l : List Word) (h : s.stack = a :: b :: c :: l) :
    s.S 2 = c := by simp [State.S, h]

/-- Two states with the same stack have the same operands. -/
theorem State.S_congr {s t : State} (h : t.stack = s.stack) (i : Nat) : t.S i = s.S i := by
  simp [State.S, h]

@[simp] theorem State.S_spend (n i : Nat) : (s.spend n).S i = s.S i := rfl
@[simp] theorem State.S_grow (n i : Nat) : (s.grow n).S i = s.S i := rfl
@[simp] theorem State.S_writeMem (a : Nat) (bs : List Byte) (i : Nat) :
    (s.writeMem a bs).S i = s.S i := rfl
@[simp] theorem State.S_logPort (x : PortTransaction) (i : Nat) : (s.logPort x).S i = s.S i := rfl
@[simp] theorem State.S_takeCost (i : Nat) : s.takeCost.S i = s.S i := State.S_congr (by simp) i
@[simp] theorem State.S_takeValue (i : Nat) : s.takeValue.S i = s.S i := State.S_congr (by simp) i

@[simp] theorem State.depth_spend (n : Nat) : (s.spend n).depth = s.depth := rfl
@[simp] theorem State.baseGas_spend (n : Nat) (op : Byte) : (s.spend n).baseGas op = s.baseGas op := rfl

end Sys2Proof.Machine
end

