-- ==== Sys2Proof/Laws/Ops.lean ====
section
/-! SUPPORT. For each shared operation, what it answers when its condition holds, and one inversion
lemma that says everything it can do. -/

namespace Sys2Proof.Machine

/-! ### Gas -/

theorem State.spend_toNat {s : State} {n : Nat} (h : n ≤ s.gas.toNat) :
    (s.spend n).gas.toNat = s.gas.toNat - n := by
  have := s.gas.isLt
  simp only [State.spend_gas, BitVec.toNat_sub, BitVec.toNat_ofNat]
  omega

/-- The gas register after a charge, as the number left. -/
theorem State.spend_gas_eq {s : State} {n : Nat} (h : n ≤ s.gas.toNat) :
    (s.spend n).gas = BitVec.ofNat 64 (s.gas.toNat - n) := by
  apply BitVec.eq_of_toNat_eq
  have := s.gas.isLt
  rw [State.spend_toNat h, BitVec.toNat_ofNat, Nat.mod_eq_of_lt (by omega)]

/-- Two charges are one charge of their sum. -/
theorem State.spend_spend (s : State) (m n : Nat) : (s.spend m).spend n = s.spend (m + n) := by
  simp only [State.spend, BitVec.ofNat_add]
  congr 1
  exact (BitVec.sub_sub _ _ _)

@[simp] theorem State.spend_zero (s : State) : s.spend 0 = s := by
  simp [State.spend]

/-- A charge that the gas covers goes on (R152). -/
theorem charge_ok {n : Nat} {s : State} {k : State → Result} (h : n ≤ s.gas.toNat) :
    charge n s k = k (s.spend n) := by simp [charge, Nat.not_lt.mpr h]

/-- A charge above the gas left raises OutOfGas and takes nothing (R152). -/
theorem charge_fail {n : Nat} {s : State} {k : State → Result} (h : s.gas.toNat < n) :
    charge n s k = raise .outOfGas s := by simp [charge, h]

/-- A charge goes on in one state only. -/
theorem charge_congr {n : Nat} {s : State} {k k' : State → Result}
    (h : k (s.spend n) = k' (s.spend n)) : charge n s k = charge n s k' := by
  simp only [charge, h]

/-! ### Faults -/

/-- A raise after `n` gas was spent, as the state R160 describes. -/
theorem raise_spend {s : State} {n : Nat} (x : OutcomeKind) (h : n ≤ s.gas.toNat) :
    raise x (s.spend n) = .next (s.faulted x n) := by
  have e := State.spend_gas_eq h
  simp only [raise, State.finish, State.faulted, State.spend] at e ⊢
  rw [e]

theorem raise_eq_faulted (s : State) (x : OutcomeKind) : raise x s = .next (s.faulted x 0) := by
  have := raise_spend (s := s) (n := 0) x (Nat.zero_le _)
  rwa [State.spend_zero] at this

/-- A fault raised in `s`. -/
def Raised (s t : State) : Prop := ∃ x, isFault x = true ∧ raise x s = .next t

/-- A fault raised after the base charge is a fault of the instruction. -/
theorem Raised.faulted {i : Instr} {s t : State} (hg : s.baseGas (opcode i) ≤ s.gas.toNat)
    (h : Raised (s.spend (s.baseGas (opcode i))) t) : Faulted i s t := by
  obtain ⟨x, hx, h⟩ := h
  rw [raise_spend x hg, Host.Outcome.next.injEq] at h
  exact .inr ⟨hg, x, hx, h.symm⟩

/-- What every fault leaves alone, and that its gas is no more than before. -/
theorem Faulted.frame {i : Instr} {s t : State} (h : Faulted i s t) :
    ∃ x g, isFault x = true ∧ BitVec.toNat g ≤ s.gas.toNat ∧
      t = { s with status := haltedStatus x, rdata := [], gas := g } := by
  have hlt := s.gas.isLt
  rcases h with ⟨_, rfl⟩ | ⟨_, x, hx, rfl⟩
  · exact ⟨.outOfGas, _, rfl, by rw [BitVec.toNat_ofNat, Nat.mod_eq_of_lt (by omega)]; omega, rfl⟩
  · exact ⟨x, _, hx, by rw [BitVec.toNat_ofNat, Nat.mod_eq_of_lt (by omega)]; omega, rfl⟩

/-- Everything `charge` can do. -/
theorem charge_cases {n : Nat} {s t : State} {k : State → Result} (h : charge n s k = .next t) :
    (s.gas.toNat < n ∧ t = s.faulted .outOfGas 0 ∧ Raised s t) ∨
      (n ≤ s.gas.toNat ∧ k (s.spend n) = .next t) := by
  rcases Nat.lt_or_ge s.gas.toNat n with hn | hn
  · rw [charge_fail hn] at h
    have e := h
    rw [raise_eq_faulted, Host.Outcome.next.injEq] at e
    exact .inl ⟨hn, e.symm, .outOfGas, rfl, h⟩
  · rw [charge_ok hn] at h
    exact .inr ⟨hn, h⟩

/-! ### Dispatch -/

/-- What the checks before a handler pass: the base charge, and the depth bounds (R143, R144, R153). -/
structure Dispatched (i : Instr) (s : State) : Prop where
  gas : s.baseGas (opcode i) ≤ s.gas.toNat
  min : (stackColumns i).1 ≤ s.depth
  cap : (s.depth : Int) + (stackColumns i).2 ≤ stackCap

/-- Past its checks, an instruction is its handler after the base charge. -/
theorem dispatch_ok {i : Instr} {s : State} {k : State → Result} (h : Dispatched i s) :
    dispatch i s k = k (s.spend (s.baseGas (opcode i))) := by
  rw [dispatch, charge_ok h.gas]
  have h1 := h.min
  have h2 := h.cap
  rw [State.depth_spend, if_neg (by omega), if_neg (by omega)]

theorem dispatch_outOfGas {i : Instr} {s : State} {k : State → Result}
    (h : s.gas.toNat < s.baseGas (opcode i)) : dispatch i s k = .next (s.faulted .outOfGas 0) := by
  rw [dispatch, charge_fail h, raise_eq_faulted]

theorem dispatch_underflow {i : Instr} {s : State} {k : State → Result}
    (h : s.baseGas (opcode i) ≤ s.gas.toNat) (h1 : s.depth < (stackColumns i).1) :
    dispatch i s k = .next (s.faulted .stackUnderflow (s.baseGas (opcode i))) := by
  rw [dispatch, charge_ok h, State.depth_spend, if_pos h1, raise_spend _ h]

theorem dispatch_overflow {i : Instr} {s : State} {k : State → Result}
    (h : s.baseGas (opcode i) ≤ s.gas.toNat) (h1 : (stackColumns i).1 ≤ s.depth)
    (h2 : (stackCap : Int) < s.depth + (stackColumns i).2) :
    dispatch i s k = .next (s.faulted .stackOverflow (s.baseGas (opcode i))) := by
  rw [dispatch, charge_ok h, State.depth_spend, if_neg (by omega), if_pos h2, raise_spend _ h]

/-- Everything `dispatch` can do. -/
theorem dispatch_cases {i : Instr} {s t : State} {k : State → Result}
    (h : dispatch i s k = .next t) :
    Faulted i s t ∨ (Dispatched i s ∧ k (s.spend (s.baseGas (opcode i))) = .next t) := by
  rcases charge_cases h with ⟨hn, h, _⟩ | ⟨hg, h⟩
  · exact .inl (.inl ⟨hn, h⟩)
  · rw [State.depth_spend] at h
    split at h
    · exact .inl (Raised.faulted hg ⟨_, rfl, h⟩)
    · split at h
      · exact .inl (Raised.faulted hg ⟨_, rfl, h⟩)
      · exact .inr ⟨⟨hg, by omega, by omega⟩, h⟩

/-! ### Growth -/

theorem ceil32_eq (n : Nat) : ceil32 n = 32 * ((n + 31) / 32) := Nat.mul_comm _ _

theorem State.reach_of_lt {s : State} {off size : Nat} (h0 : size ≠ 0)
    (h : s.msize < ceil32 (off + size)) : s.reach off size = ceil32 (off + size) := by
  rw [ceil32_eq] at h ⊢
  simp only [State.reach, if_neg h0]
  omega

theorem State.reach_of_ge {s : State} {off size : Nat}
    (h : size = 0 ∨ ceil32 (off + size) ≤ s.msize) : s.reach off size = s.msize := by
  rw [ceil32_eq] at h
  simp only [State.reach]
  split <;> omega

/-- The state with memory grown over an access (the identity where it is covered already). -/
def State.expanded (s : State) (off size : Nat) : State :=
  if s.msize < s.reach off size then s.grow (s.reach off size) else s

@[simp] theorem State.reach_spend (s : State) (n off size : Nat) :
    (s.spend n).reach off size = s.reach off size := rfl

@[simp] theorem State.accessCost_spend (s : State) (n off size : Nat) :
    (s.spend n).accessCost off size = s.accessCost off size := rfl

/-- `Expand` below the ceiling is one charge of the access cost, then the growth (R66). -/
theorem expand_eq {off size : Nat} {s : State} {k : State → Result}
    (h : ¬ s.overCeiling off size) :
    expand off size s k =
      charge (s.accessCost off size) s fun s' => k (s'.expanded off size) := by
  have cov : size = 0 ∨ ceil32 (off + size) ≤ s.msize →
      (charge (s.accessCost off size) s fun s' => k (s'.expanded off size)) = k s := by
    intro hc
    have hr := State.reach_of_ge hc
    have h0 : s.accessCost off size = 0 := by simp [State.accessCost, hr]
    have hr' : (s.spend 0).reach off size = s.reach off size := rfl
    rw [h0, charge_ok (Nat.zero_le _)]
    simp [State.expanded, hr]
  unfold expand
  by_cases h0 : size = 0
  · rw [if_pos h0, cov (.inl h0)]
  · have hm : ¬ s.params.memMax < off + size := fun hlt => h ⟨h0, hlt⟩
    rw [if_neg h0, if_neg hm]
    by_cases hn : s.msize < ceil32 (off + size)
    · have hr := State.reach_of_lt h0 hn
      have he : s.expansionCost (ceil32 (off + size)) = s.accessCost off size := by
        simp [State.expansionCost, State.accessCost, hr]
      rw [if_pos hn, he]
      refine charge_congr ?_
      have : (s.spend (s.accessCost off size)).expanded off size =
          (s.spend (s.accessCost off size)).grow (ceil32 (off + size)) := by
        simp [State.expanded, hr, hn]
      rw [this]
    · rw [if_neg hn, cov (.inr (by omega))]

/-- An access above the ceiling raises MemoryLimitExceeded (R68). -/
theorem expand_overCeiling {off size : Nat} {s : State} {k : State → Result}
    (h : s.overCeiling off size) : expand off size s k = raise .memoryLimitExceeded s := by
  rw [expand, if_neg h.1, if_pos h.2]

/-- Everything `Expand` can do (R66). -/
theorem expand_cases {off size : Nat} {s t : State} {k : State → Result}
    (h : expand off size s k = .next t) :
    Raised s t ∨
      (¬ s.overCeiling off size ∧ s.accessCost off size ≤ s.gas.toNat ∧
        k ((s.spend (s.accessCost off size)).expanded off size) = .next t) := by
  by_cases hc : s.overCeiling off size
  · rw [expand_overCeiling hc] at h
    exact .inl ⟨_, rfl, h⟩
  · rw [expand_eq hc] at h
    rcases charge_cases h with ⟨_, _, h⟩ | ⟨hg, h⟩
    · exact .inl h
    · exact .inr ⟨hc, hg, h⟩

/-! ### The grown state -/

theorem State.reach_ge (s : State) (off size : Nat) : s.msize ≤ s.reach off size := by
  simp only [State.reach]; split <;> omega

/-- The accessed range lies below the length it leaves (R62). -/
theorem State.le_reach (s : State) {off size : Nat} (h : size ≠ 0) :
    off + size ≤ s.reach off size := by
  simp only [State.reach, if_neg h]; omega

/-- Below a ceiling that is a multiple of 32, the new length is at most MEM_MAX (R36). -/
theorem State.reach_le {s : State} {off size m : Nat} (hm : m % 32 = 0) (hs : s.msize ≤ m)
    (h : size ≠ 0 → off + size ≤ m) : s.reach off size ≤ m := by
  simp only [State.reach]; split <;> omega

theorem State.reach_mod {s : State} (off size : Nat) (h : s.msize % 32 = 0) :
    s.reach off size % 32 = 0 := by
  simp only [State.reach]; split <;> omega

@[simp] theorem State.expanded_msize (s : State) (off size : Nat) :
    (s.expanded off size).msize = s.reach off size := by
  have := s.reach_ge off size
  simp only [State.expanded]
  split
  · rfl
  · omega

/-- The memory cells after a growth. -/
theorem State.expanded_mem (s : State) (off size : Nat) :
    (s.expanded off size).mem = s.mem ∨
      (s.expanded off size).mem = Memory.zeroRange s.mem s.msize (s.reach off size) := by
  simp only [State.expanded]
  split
  · exact .inr rfl
  · exact .inl rfl

/-- Where every listed byte exists, a growth changes the length only. -/
theorem State.expanded_eq {s : State} (off size : Nat) (h : ∀ c ∈ s.mem, c.1 < s.msize) :
    s.expanded off size = { s with msize := s.reach off size } := by
  have := s.reach_ge off size
  simp only [State.expanded]
  split
  · simp only [State.grow, Memory.zeroRange_eq_self h]
  · have e : s.reach off size = s.msize := by omega
    rw [e]

theorem State.expanded_S (s : State) (off size i : Nat) : (s.expanded off size).S i = s.S i := by
  simp only [State.expanded]; split <;> rfl

theorem State.expanded_mem_wf {s : State} (off size : Nat) (h : Memory.wf s.mem) :
    Memory.wf (s.expanded off size).mem := by
  rcases s.expanded_mem off size with e | e <;> rw [e]
  · exact h
  · exact Memory.wf_zeroRange h _ _

theorem State.expanded_mem_low {s : State} (off size : Nat) (h : ∀ c ∈ s.mem, c.1 < s.msize) :
    ∀ c ∈ (s.expanded off size).mem, c.1 < s.reach off size := by
  intro c hc
  have := s.reach_ge off size
  rw [State.expanded_eq off size h] at hc
  have := h c hc
  omega

/-- The fields a growth leaves alone. -/
theorem State.expanded_frame (s : State) (off size : Nat) :
    (s.expanded off size) =
      { s with mem := (s.expanded off size).mem, msize := s.reach off size } := by
  have := s.reach_ge off size
  simp only [State.expanded]
  split
  · rfl
  · have e : s.reach off size = s.msize := by omega
    rw [e]

end Sys2Proof.Machine
end

