-- ==== Sys2Proof/Laws/Exec.lean ====
section
/-! SUPPORT. What one instruction can do, said once: if `exec` answers a next state, that state is a
fault of the instruction or the instruction ran, and then `Ran` says what it did to each field.
Invariants and frames follow from this without unfolding a meaning. -/

namespace Sys2Proof.Machine

/-! ### What a run instruction did -/

/-- The instructions that can complete by the default advance (R155): all but the halting ones and
JUMP. -/
abbrev Advances (i : Instr) : Prop :=
  i ≠ .stop ∧ i ≠ .ret ∧ i ≠ .revert ∧ i ≠ .invalid ∧ i ≠ .jump

/-- The instructions that have no business with the storage port. -/
abbrev Portless (i : Instr) : Prop := i ≠ .sload ∧ i ≠ .sstore

/-- The control part: `status`, `rdata` and the pc (R155, R156, R161). -/
inductive Control (i : Instr) (s t : State) : Prop where
  /-- The default advance. -/
  | advanced (hi : Advances i) (hs : t.status = s.status) (hr : t.rdata = s.rdata)
      (hp : t.pc = (s.advance i.length).pc)
  /-- A taken jump to an element of JD. -/
  | jumped (hi : i = .jump ∨ i = .jumpi) (hs : t.status = s.status) (hr : t.rdata = s.rdata)
      (d : Nat) (hd : d ∈ s.jd) (hp : t.pc = BitVec.ofNat 32 d)
  /-- STOP. -/
  | stopped (hi : i = .stop) (hs : t.status = haltedStatus .stop) (hr : t.rdata = [])
      (hp : t.pc = s.pc)
  /-- RETURN. -/
  | returned (hi : i = .ret) (hs : t.status = haltedStatus .ret) (hp : t.pc = s.pc)
  /-- REVERT. -/
  | reverted (hi : i = .revert) (hs : t.status = haltedStatus .revert) (hp : t.pc = s.pc)

/-- The instructions that access data memory (R44). -/
abbrev Accesses (i : Instr) : Prop :=
  i = .mload ∨ i = .mstore ∨ i = .mstore8 ∨ i = .ret ∨ i = .revert

/-- The bytes that MSTORE and MSTORE8 store to (R362, R363). -/
abbrev StoresTo (i : Instr) (s : State) (off size : Nat) : Prop :=
  off = (s.S 0).toNat ∧ ((i = .mstore ∧ size = 32) ∨ (i = .mstore8 ∧ size = 1))

/-- The memory part: a growth over some range, by the accessing instructions only, and a store of that
range, by MSTORE and MSTORE8 only (R44, R66). -/
def MemoryPart (i : Instr) (s t : State) : Prop :=
  ∃ off size, (size = 0 ∨ Accesses i) ∧ ¬ s.overCeiling off size ∧ t.msize = s.reach off size ∧
    (t.mem = (s.expanded off size).mem ∨
      (StoresTo i s off size ∧ ∃ bs, bs.length = size ∧
        t.mem = Memory.writeBytes (s.expanded off size).mem off bs))

/-- The port part: SLOAD and SSTORE issue one transaction each, no other instruction any (R82). -/
inductive PortPart (i : Instr) (s t : State) : Prop where
  | none (hi : Portless i) (hl : t.portLog = s.portLog) (hc : t.portCosts = s.portCosts)
      (hv : t.portValues = s.portValues) (hd : t.portDraws = s.portDraws)
  | read (hi : i = .sload) (key value : Word) (hl : t.portLog = s.portLog ++ [.read key value])
      (hc : t.portCosts = s.portCosts.tail)
      (hg : t.gas.toNat + s.baseGas (opcode i) + s.portCost ≤ s.gas.toNat)
  | write (hi : i = .sstore) (key value : Word) (hl : t.portLog = s.portLog ++ [.write key value])
      (hc : t.portCosts = s.portCosts.tail)
      (hg : t.gas.toNat + s.baseGas (opcode i) + s.portCost ≤ s.gas.toNat)

/-- What an instruction that ran without a fault did to each field of the state. -/
structure Ran (i : Instr) (s t : State) : Prop where
  dispatched : Dispatched i s
  params : t.params = s.params
  code : t.code = s.code
  jd : t.jd = s.jd
  inputData : t.inputData = s.inputData
  depth : (t.depth : Int) = s.depth + (stackColumns i).2
  gas : t.gas.toNat + s.baseGas (opcode i) ≤ s.gas.toNat
  control : Control i s t
  memory : MemoryPart i s t
  port : PortPart i s t

/-- An access to no byte. -/
theorem MemoryPart.same {i : Instr} {s t : State} (hm : t.mem = s.mem) (hz : t.msize = s.msize) :
    MemoryPart i s t := by
  have hr : s.reach 0 0 = s.msize := State.reach_of_ge (.inl rfl)
  refine ⟨0, 0, .inl rfl, fun h => h.1 rfl, by rw [hz, hr], .inl ?_⟩
  rw [hm]
  simp [State.expanded, hr]

/-- An instruction that writes only gas, the stack and the pc, and advances. -/
theorem Ran.simple {i : Instr} {s : State} (ha : Advances i) (hq : Portless i) (hd : Dispatched i s) {n : Nat} {l : List Word}
    (hn : s.baseGas (opcode i) + n ≤ s.gas.toNat)
    (hl : (l.length : Int) = s.depth + (stackColumns i).2) :
    Ran i s (((s.spend (s.baseGas (opcode i) + n)).setStack l).advance i.length) where
  dispatched := hd
  params := rfl
  code := rfl
  jd := rfl
  inputData := rfl
  depth := hl
  gas := by
    simp only [State.advance_gas, State.setStack_gas]
    rw [State.spend_toNat hn]; omega
  control := .advanced ha rfl rfl rfl
  memory := .same rfl rfl
  port := .none hq rfl rfl rfl rfl

/-- `computeWord` is a fault or a run (R150). -/
theorem computeWord_cases {i : Instr} {n : Nat} {f : State → Word} {s t : State}
    (ha : Advances i) (hq : Portless i) (hmin : n ≤ (stackColumns i).1)
    (hdelta : (stackColumns i).2 = 1 - (n : Int))
    (h : computeWord i n f s = .next t) : Faulted i s t ∨ Ran i s t := by
  rcases dispatch_cases h with h | ⟨hd, h⟩
  · exact .inl h
  · right
    simp only [Host.Outcome.next.injEq] at h
    subst h
    refine Ran.simple ha hq hd (n := 0) (by simpa using hd.gas) ?_
    have := hd.min
    simp only [State.spend_stack, List.length_cons, List.length_drop, ← State.depth_eq, hdelta]
    omega

/-- SWAPk is a fault or a run (R312). -/
theorem swapWords_cases {i : Instr} {k : Nat} {s t : State} (ha : Advances i) (hq : Portless i)
    (hdelta : (stackColumns i).2 = 0)
    (h : swapWords i k s = .next t) : Faulted i s t ∨ Ran i s t := by
  rcases dispatch_cases h with h | ⟨hd, h⟩
  · exact .inl h
  · right
    simp only [Host.Outcome.next.injEq] at h
    subst h
    refine Ran.simple ha hq hd (n := 0) (by simpa using hd.gas) ?_
    simp [State.depth_eq, hdelta]

/-- POP is a fault or a run. -/
theorem execPop_cases {s t : State} (h : execPop s = .next t) : Faulted .pop s t ∨ Ran .pop s t := by
  rcases dispatch_cases h with h | ⟨hd, h⟩
  · exact .inl h
  · right
    simp only [Host.Outcome.next.injEq] at h
    subst h
    refine Ran.simple (by simp [Advances]) (by simp [Portless]) hd (n := 0) (by simpa using hd.gas) ?_
    have := hd.min
    simp only [stackColumns] at this ⊢
    simp only [State.spend_stack, List.length_drop, ← State.depth_eq]
    omega

/-- JUMPDEST is a fault or a run. -/
theorem execJumpdest_cases {s t : State} (h : execJumpdest s = .next t) :
    Faulted .jumpdest s t ∨ Ran .jumpdest s t := by
  rcases dispatch_cases h with h | ⟨hd, h⟩
  · exact .inl h
  · right
    simp only [Host.Outcome.next.injEq] at h
    subst h
    refine Ran.simple (l := s.stack) (by simp [Advances]) (by simp [Portless]) hd (n := 0) (by simpa using hd.gas) ?_
    simp [stackColumns, State.depth_eq]

/-- EXP is a fault or a run (R210). -/
theorem execExp_cases {s t : State} (h : execExp s = .next t) : Faulted .exp s t ∨ Ran .exp s t := by
  rcases dispatch_cases h with h | ⟨hd, h⟩
  · exact .inl h
  · rcases charge_cases h with ⟨_, _, h⟩ | ⟨hg, h⟩
    · exact .inl (h.faulted hd.gas)
    · right
      simp only [Host.Outcome.next.injEq] at h
      subst h
      rw [State.spend_toNat hd.gas] at hg
      have hgas := hd.gas
      rw [State.spend_spend]
      refine Ran.simple (by simp [Advances]) (by simp [Portless]) hd (by omega) ?_
      have := hd.min
      simp only [stackColumns] at this ⊢
      simp only [State.spend_stack, List.length_cons, List.length_drop, ← State.depth_eq]
      omega

/-! ### Jumps -/

/-- A taken jump is a fault or a run (R156). -/
theorem jumpTo_cases {i : Instr} {t : Word} {k : Nat} {s s' : State} (hi : i = .jump ∨ i = .jumpi)
    (hmin : k ≤ (stackColumns i).1) (hdelta : (stackColumns i).2 = -(k : Int))
    (hd : Dispatched i s) (h : jumpTo t k (s.spend (s.baseGas (opcode i))) = .next s') :
    Faulted i s s' ∨ Ran i s s' := by
  simp only [jumpTo] at h
  split at h
  · rename_i hv
    right
    simp only [Host.Outcome.next.injEq] at h
    subst h
    have hm := hd.min
    exact {
      dispatched := hd
      params := rfl
      code := rfl
      jd := rfl
      inputData := rfl
      depth := by
        simp only [State.depth_eq, State.setPc_stack, State.drop_stack, State.spend_stack,
          List.length_drop, hdelta]
        rw [State.depth_eq] at hm
        omega
      gas := by
        simp only [State.setPc_gas, State.drop_gas]
        rw [State.spend_toNat hd.gas]
        have := hd.gas
        omega
      control := .jumped hi rfl rfl t.toNat (by simpa [State.validTarget] using hv) rfl
      memory := .same rfl rfl
      port := .none (by rcases hi with rfl | rfl <;> simp [Portless]) rfl rfl rfl rfl }
  · exact .inl (Raised.faulted hd.gas ⟨_, rfl, h⟩)

theorem execJump_cases {s t : State} (h : execJump s = .next t) : Faulted .jump s t ∨ Ran .jump s t := by
  rcases dispatch_cases h with h | ⟨hd, h⟩
  · exact .inl h
  · exact jumpTo_cases (.inl rfl) (by decide) (by decide) hd h

theorem execJumpi_cases {s t : State} (h : execJumpi s = .next t) :
    Faulted .jumpi s t ∨ Ran .jumpi s t := by
  rcases dispatch_cases h with h | ⟨hd, h⟩
  · exact .inl h
  · split at h
    · exact jumpTo_cases (.inr rfl) (by decide) (by decide) hd h
    · split at h
      · exact .inl (Raised.faulted hd.gas ⟨_, rfl, h⟩)
      · right
        simp only [Host.Outcome.next.injEq] at h
        subst h
        refine Ran.simple (by simp [Advances]) (by simp [Portless]) hd (n := 0) (by simpa using hd.gas) ?_
        have := hd.min
        simp only [stackColumns] at this ⊢
        simp only [State.spend_stack, List.length_drop, ← State.depth_eq]
        omega

/-! ### Memory -/

/-- The state past the base charge and a covered access: what the memory instructions go on from. -/
theorem Ran.access {i : Instr} {s u : State} {off size : Nat} (hq : Portless i) (ha : Accesses i)
    (hd : Dispatched i s) (hc : ¬ s.overCeiling off size)
    (hg : s.baseGas (opcode i) + s.accessCost off size ≤ s.gas.toNat)
    (hu : u = (s.spend (s.baseGas (opcode i) + s.accessCost off size)).expanded off size)
    {t : State} (hp : t.params = u.params) (hcode : t.code = u.code) (hjd : t.jd = u.jd)
    (hin : t.inputData = u.inputData) (hgas : t.gas = u.gas) (hz : t.msize = u.msize)
    (hl : t.portLog = u.portLog) (hpc : t.portCosts = u.portCosts)
    (hpv : t.portValues = u.portValues) (hpd : t.portDraws = u.portDraws)
    (hdepth : (t.depth : Int) = s.depth + (stackColumns i).2) (hctl : Control i s t)
    (hm : t.mem = u.mem ∨ (StoresTo i s off size ∧ ∃ bs, bs.length = size ∧
      t.mem = Memory.writeBytes u.mem off bs)) : Ran i s t := by
  have hf := State.expanded_frame (s.spend (s.baseGas (opcode i) + s.accessCost off size)) off size
  have hum : u.mem = (s.expanded off size).mem := by
    rw [hu]
    have e : ∀ u : State, u.msize = s.msize → u.reach off size = s.reach off size → u.mem = s.mem →
        (u.expanded off size).mem = (s.expanded off size).mem := by
      intro u h1 h2 h3
      by_cases hlt : s.msize < s.reach off size
      · simp [State.expanded, State.grow, h1, h2, h3, hlt]
      · simp [State.expanded, h1, h2, h3, hlt]
    exact e _ rfl rfl rfl
  have hug : u.gas = (s.spend (s.baseGas (opcode i) + s.accessCost off size)).gas := by
    rw [hu, hf]
  rw [← hu] at hf
  exact {
    dispatched := hd
    params := by rw [hp, hf]; rfl
    code := by rw [hcode, hf]; rfl
    jd := by rw [hjd, hf]; rfl
    inputData := by rw [hin, hf]; rfl
    depth := hdepth
    gas := by rw [hgas, hug, State.spend_toNat hg]; omega
    control := hctl
    memory := by
      refine ⟨off, size, .inr ha, hc, ?_, ?_⟩
      · rw [hz, hu, State.expanded_msize]; rfl
      · rwa [hum] at hm
    port := by
      refine .none hq ?_ ?_ ?_ ?_
      · rw [hl, hf]; rfl
      · rw [hpc, hf]; rfl
      · rw [hpv, hf]; rfl
      · rw [hpd, hf]; rfl }

/-- The base charge and `Expand` together: a fault, or the handler goes on from the grown state. -/
theorem dispatch_expand_cases {i : Instr} {s t : State} {off size : Nat} {k : State → Result}
    (h : expand off size (s.spend (s.baseGas (opcode i))) k = .next t) (hd : Dispatched i s) :
    Faulted i s t ∨
      (¬ s.overCeiling off size ∧ s.baseGas (opcode i) + s.accessCost off size ≤ s.gas.toNat ∧
        k ((s.spend (s.baseGas (opcode i) + s.accessCost off size)).expanded off size) = .next t) := by
  rcases expand_cases h with h | ⟨hc, hg, h⟩
  · exact .inl (h.faulted hd.gas)
  · right
    have := hd.gas
    rw [State.accessCost_spend, State.spend_toNat hd.gas] at hg
    rw [State.accessCost_spend, State.spend_spend] at h
    exact ⟨hc, by omega, h⟩

/-- The stack and the pc are not touched by a growth. -/
theorem State.expanded_stack (s : State) (off size : Nat) :
    (s.expanded off size).stack = s.stack := by rw [State.expanded_frame]

theorem State.expanded_pc (s : State) (off size : Nat) : (s.expanded off size).pc = s.pc := by
  rw [State.expanded_frame]

theorem State.expanded_code (s : State) (off size : Nat) : (s.expanded off size).code = s.code := by
  rw [State.expanded_frame]

theorem State.expanded_status (s : State) (off size : Nat) :
    (s.expanded off size).status = s.status := by rw [State.expanded_frame]

theorem State.expanded_rdata (s : State) (off size : Nat) :
    (s.expanded off size).rdata = s.rdata := by rw [State.expanded_frame]

theorem execMload_cases {s t : State} (h : execMload s = .next t) :
    Faulted .mload s t ∨ Ran .mload s t := by
  rcases dispatch_cases h with h | ⟨hd, h⟩
  · exact .inl h
  · rcases dispatch_expand_cases h hd with h | ⟨hc, hg, h⟩
    · exact .inl h
    · right
      simp only [Host.Outcome.next.injEq] at h
      subst h
      refine Ran.access (by simp [Portless]) (by simp [Accesses]) hd hc hg rfl rfl rfl rfl rfl rfl rfl rfl rfl rfl rfl ?_ ?_ (.inl rfl)
      · have := hd.min
        simp only [stackColumns] at this ⊢
        simp only [State.depth_eq, State.advance_stack, State.dropPush_stack, State.expanded_stack,
          State.spend_stack, List.length_cons, List.length_drop] at this ⊢
        omega
      · refine .advanced (by simp [Advances]) ?_ ?_ ?_ <;>
          simp [State.expanded_status, State.expanded_rdata, State.expanded_pc, State.expanded_code]

theorem execMstore_cases {s t : State} (h : execMstore s = .next t) :
    Faulted .mstore s t ∨ Ran .mstore s t := by
  rcases dispatch_cases h with h | ⟨hd, h⟩
  · exact .inl h
  · rcases dispatch_expand_cases h hd with h | ⟨hc, hg, h⟩
    · exact .inl h
    · right
      rw [State.S_spend] at hc hg h
      simp only [State.expanded_S, State.S_spend, Host.Outcome.next.injEq] at h
      subst h
      have hdrop : (s.stack.drop 2).length + 2 = s.stack.length := by
        have := hd.min
        simp only [stackColumns, State.depth_eq] at this
        rw [List.length_drop]
        omega
      refine Ran.access (u := (s.spend _).expanded (s.S 0).toNat 32)
        (size := 32) (by simp [Portless]) (by simp [Accesses]) hd hc hg rfl (by simp only [State.advance_params, State.drop_params, State.writeMem_params]) (by simp only [State.advance_code, State.drop_code, State.writeMem_code])
        (by simp only [State.advance_jd, State.drop_jd, State.writeMem_jd]) (by simp only [State.advance_inputData, State.drop_inputData, State.writeMem_inputData]) (by simp only [State.advance_gas, State.drop_gas, State.writeMem_gas])
        (by simp only [State.advance_msize, State.drop_msize, State.writeMem_msize]) (by simp only [State.advance_portLog, State.drop_portLog, State.writeMem_portLog]) (by simp only [State.advance_portCosts, State.drop_portCosts, State.writeMem_portCosts])
        (by simp only [State.advance_portValues, State.drop_portValues, State.writeMem_portValues]) (by simp only [State.advance_portDraws, State.drop_portDraws, State.writeMem_portDraws]) ?_ ?_
        (.inr ⟨⟨rfl, .inl ⟨rfl, rfl⟩⟩, wordBytes (s.S 1), by simp [wordBytes], ?_⟩)
      · simp only [State.depth_eq, State.advance_stack, State.drop_stack, State.writeMem_stack,
          State.expanded_stack, State.spend_stack, stackColumns]
        omega
      · refine .advanced (by simp [Advances]) ?_ ?_ ?_ <;>
          simp [State.expanded_status, State.expanded_rdata, State.expanded_pc, State.expanded_code]
      · simp only [State.advance_mem, State.drop_mem, State.writeMem_mem]

theorem execMstore8_cases {s t : State} (h : execMstore8 s = .next t) :
    Faulted .mstore8 s t ∨ Ran .mstore8 s t := by
  rcases dispatch_cases h with h | ⟨hd, h⟩
  · exact .inl h
  · rcases dispatch_expand_cases h hd with h | ⟨hc, hg, h⟩
    · exact .inl h
    · right
      rw [State.S_spend] at hc hg h
      simp only [State.expanded_S, State.S_spend, Host.Outcome.next.injEq] at h
      subst h
      have hdrop : (s.stack.drop 2).length + 2 = s.stack.length := by
        have := hd.min
        simp only [stackColumns, State.depth_eq] at this
        rw [List.length_drop]
        omega
      refine Ran.access (u := (s.spend _).expanded (s.S 0).toNat 1)
        (size := 1) (by simp [Portless]) (by simp [Accesses]) hd hc hg rfl (by simp only [State.advance_params, State.drop_params, State.writeMem_params]) (by simp only [State.advance_code, State.drop_code, State.writeMem_code])
        (by simp only [State.advance_jd, State.drop_jd, State.writeMem_jd]) (by simp only [State.advance_inputData, State.drop_inputData, State.writeMem_inputData]) (by simp only [State.advance_gas, State.drop_gas, State.writeMem_gas])
        (by simp only [State.advance_msize, State.drop_msize, State.writeMem_msize]) (by simp only [State.advance_portLog, State.drop_portLog, State.writeMem_portLog]) (by simp only [State.advance_portCosts, State.drop_portCosts, State.writeMem_portCosts])
        (by simp only [State.advance_portValues, State.drop_portValues, State.writeMem_portValues]) (by simp only [State.advance_portDraws, State.drop_portDraws, State.writeMem_portDraws]) ?_ ?_
        (.inr ⟨⟨rfl, .inr ⟨rfl, rfl⟩⟩, [(s.S 1).setWidth 8], rfl, ?_⟩)
      · simp only [State.depth_eq, State.advance_stack, State.drop_stack, State.writeMem_stack,
          State.expanded_stack, State.spend_stack, stackColumns]
        omega
      · refine .advanced (by simp [Advances]) ?_ ?_ ?_ <;>
          simp [State.expanded_status, State.expanded_rdata, State.expanded_pc, State.expanded_code]
      · simp only [State.advance_mem, State.drop_mem, State.writeMem_mem]

/-- RETURN and REVERT are a fault or a run (R422, R423). -/
theorem haltWithData_cases {i : Instr} {k : OutcomeKind} {s t : State}
    (hi : (i = .ret ∧ k = .ret) ∨ (i = .revert ∧ k = .revert))
    (h : haltWithData i k s = .next t) : Faulted i s t ∨ Ran i s t := by
  rcases dispatch_cases h with h | ⟨hd, h⟩
  · exact .inl h
  · rcases dispatch_expand_cases h hd with h | ⟨hc, hg, h⟩
    · exact .inl h
    · right
      simp only [halt, Host.Outcome.next.injEq] at h
      subst h
      refine Ran.access (by rcases hi with ⟨rfl, _⟩ | ⟨rfl, _⟩ <;> simp [Portless])
        (by rcases hi with ⟨rfl, _⟩ | ⟨rfl, _⟩ <;> simp [Accesses]) hd hc hg rfl rfl rfl rfl rfl rfl rfl rfl rfl rfl rfl ?_ ?_ (.inl rfl)
      · have := hd.min
        rcases hi with ⟨rfl, rfl⟩ | ⟨rfl, rfl⟩ <;>
        · simp only [stackColumns] at this ⊢
          simp only [State.depth_eq, State.finish_stack, State.drop_stack, State.expanded_stack,
            State.spend_stack, List.length_drop] at this ⊢
          omega
      · have hp : ∀ d, ((((s.spend (s.baseGas (opcode i) + s.accessCost
            ((s.spend (s.baseGas (opcode i))).S 0).toNat ((s.spend (s.baseGas (opcode i))).S 1).toNat)).expanded
            ((s.spend (s.baseGas (opcode i))).S 0).toNat
            ((s.spend (s.baseGas (opcode i))).S 1).toNat).drop 2).finish k d).pc = s.pc := by
          intro d
          simp [State.expanded_pc]
        rcases hi with ⟨rfl, rfl⟩ | ⟨rfl, rfl⟩
        · exact .returned rfl rfl (hp _)
        · exact .reverted rfl rfl (hp _)

/-! ### Halts without data -/

theorem execStop_cases {s t : State} (h : execStop s = .next t) : Faulted .stop s t ∨ Ran .stop s t := by
  rcases dispatch_cases h with h | ⟨hd, h⟩
  · exact .inl h
  · right
    simp only [halt, Host.Outcome.next.injEq] at h
    subst h
    exact {
      dispatched := hd
      params := rfl
      code := rfl
      jd := rfl
      inputData := rfl
      depth := by simp [stackColumns, State.depth_eq]
      gas := by
        simp only [State.finish_gas]
        rw [State.spend_toNat hd.gas]
        have := hd.gas
        omega
      control := .stopped rfl rfl rfl rfl
      memory := .same rfl rfl
      port := .none (by simp [Portless]) rfl rfl rfl rfl }

/-- The invalid handler always faults (R141). -/
theorem invalidOpcode_faulted {s t : State} (h : invalidOpcode s = .next t) : Faulted .invalid s t := by
  rcases dispatch_cases h with h | ⟨hd, h⟩
  · exact h
  · exact Raised.faulted hd.gas ⟨_, rfl, h⟩

/-! ### The storage port -/

theorem execSload_cases {s t : State} (h : execSload s = .next t) :
    Faulted .sload s t ∨ Ran .sload s t := by
  rcases dispatch_cases h with h | ⟨hd, h⟩
  · exact .inl h
  · rcases charge_cases h with ⟨_, _, h⟩ | ⟨hg, h⟩
    · exact .inl (h.faulted hd.gas)
    · right
      simp only [Host.Outcome.next.injEq] at h
      subst h
      have hgas := hd.gas
      have hc : (s.spend (s.baseGas (opcode .sload))).portCost = s.portCost := rfl
      rw [hc, State.spend_toNat hgas] at hg
      rw [hc, State.spend_spend]
      have hn : s.baseGas (opcode .sload) + s.portCost ≤ s.gas.toNat := by omega
      exact {
        dispatched := hd
        params := by simp
        code := by simp
        jd := by simp
        inputData := by simp
        depth := by
          have := hd.min
          simp only [stackColumns] at this ⊢
          simp only [State.depth_eq, State.advance_stack, State.dropPush_stack,
            State.logPort_stack, State.takeValue_stack, State.takeCost_stack, State.spend_stack,
            List.length_cons, List.length_drop] at this ⊢
          omega
        gas := by
          simp only [State.advance_gas, State.dropPush_gas, State.logPort_gas, State.takeValue_gas,
            State.takeCost_gas]
          rw [State.spend_toNat hn]; omega
        control := .advanced (by simp [Advances]) (by simp) (by simp) (by simp)
        memory := .same (by simp) (by simp)
        port := .read rfl (s.S 0) (s.spend (s.baseGas (opcode .sload) + s.portCost)).takeCost.portValue (by simp) (by simp) (by
          simp only [State.advance_gas, State.dropPush_gas, State.logPort_gas, State.takeValue_gas,
            State.takeCost_gas]
          rw [State.spend_toNat hn]; omega) }

theorem State.sstoreOperands_spend (s : State) (n : Nat) :
    (s.spend n).sstoreOperands = s.sstoreOperands := rfl

theorem execSstore_cases {s t : State} (h : execSstore s = .next t) :
    Faulted .sstore s t ∨ Ran .sstore s t := by
  rcases dispatch_cases h with h | ⟨hd, h⟩
  · exact .inl h
  · rcases charge_cases h with ⟨_, _, h⟩ | ⟨hg, h⟩
    · exact .inl (h.faulted hd.gas)
    · right
      simp only [Host.Outcome.next.injEq] at h
      subst h
      have hgas := hd.gas
      have hc : (s.spend (s.baseGas (opcode .sstore))).portCost = s.portCost := rfl
      rw [hc, State.spend_toNat hgas] at hg
      rw [hc, State.spend_spend]
      have hn : s.baseGas (opcode .sstore) + s.portCost ≤ s.gas.toNat := by omega
      exact {
        dispatched := hd
        params := by simp
        code := by simp
        jd := by simp
        inputData := by simp
        depth := by
          have := hd.min
          simp only [stackColumns] at this ⊢
          simp only [State.depth_eq, State.advance_stack, State.drop_stack, State.logPort_stack,
            State.takeCost_stack, State.spend_stack, List.length_drop] at this ⊢
          omega
        gas := by
          simp only [State.advance_gas, State.drop_gas, State.logPort_gas, State.takeCost_gas]
          rw [State.spend_toNat hn]; omega
        control := .advanced (by simp [Advances]) (by simp) (by simp) (by simp)
        memory := .same (by simp) (by simp)
        port := .write rfl s.sstoreOperands.1 s.sstoreOperands.2
          (by simp [State.sstoreOperands_spend]) (by simp) (by
          simp only [State.advance_gas, State.drop_gas, State.logPort_gas, State.takeCost_gas]
          rw [State.spend_toNat hn]; omega) }

/-! ### Every instruction -/

/-- A one-operand instruction is a fault or a run. -/
theorem unaryOp_cases {i : Instr} {f : Word → Word} {s t : State} (h : unaryOp i f s = .next t)
    (hc : stackColumns i = (1, 0)) (ha : Advances i) (hq : Portless i) : Faulted i s t ∨ Ran i s t :=
  computeWord_cases ha hq (by rw [hc]) (by rw [hc]; rfl) h

/-- A two-operand instruction is a fault or a run. -/
theorem binaryOp_cases {i : Instr} {f : Word → Word → Word} {s t : State} (h : binaryOp i f s = .next t)
    (hc : stackColumns i = (2, -1)) (ha : Advances i) (hq : Portless i) : Faulted i s t ∨ Ran i s t :=
  computeWord_cases ha hq (by rw [hc]) (by rw [hc]; rfl) h

/-- A three-operand instruction is a fault or a run. -/
theorem ternaryOp_cases {i : Instr} {f : Word → Word → Word → Word} {s t : State} (h : ternaryOp i f s = .next t)
    (hc : stackColumns i = (3, -2)) (ha : Advances i) (hq : Portless i) : Faulted i s t ∨ Ran i s t :=
  computeWord_cases ha hq (by rw [hc]) (by rw [hc]; rfl) h

/-- An instruction that only pushes is a fault or a run. -/
theorem pushOp_cases {i : Instr} {f : State → Word} {s t : State} (h : pushOp i f s = .next t)
    (hc : stackColumns i = (0, 1)) (ha : Advances i) (hq : Portless i) : Faulted i s t ∨ Ran i s t :=
  computeWord_cases ha hq (by rw [hc]) (by rw [hc]; rfl) h

/-- DUPk is a fault or a run (R295). -/
theorem dupWord_cases {i : Instr} {k : Nat} {s t : State} (h : dupWord i k s = .next t)
    (hd : (stackColumns i).2 = 1) (ha : Advances i) (hq : Portless i) : Faulted i s t ∨ Ran i s t :=
  computeWord_cases (n := 0) (f := fun s' => s'.S (k - 1)) ha hq
    (Nat.zero_le _) hd h

/-- Everything an instruction can do when it answers a next state. -/
theorem exec_cases {i : Instr} {s t : State} (h : exec i s = .next t) :
    Faulted i s t ∨ Ran i s t := by
  cases i
  case pop => exact execPop_cases h
  case jumpdest => exact execJumpdest_cases h
  case exp => exact execExp_cases h
  case jump => exact execJump_cases h
  case jumpi => exact execJumpi_cases h
  case mload => exact execMload_cases h
  case mstore => exact execMstore_cases h
  case mstore8 => exact execMstore8_cases h
  case ret => exact haltWithData_cases (.inl ⟨rfl, rfl⟩) h
  case revert => exact haltWithData_cases (.inr ⟨rfl, rfl⟩) h
  case stop => exact execStop_cases h
  case invalid => exact .inl (invalidOpcode_faulted h)
  case sload => exact execSload_cases h
  case sstore => exact execSstore_cases h
  case lt => exact binaryOp_cases (f := fun a b => boolWord (a.toNat < b.toNat)) h rfl (by simp [Advances]) (by simp [Portless])
  case gt => exact binaryOp_cases (f := fun a b => boolWord (b.toNat < a.toNat)) h rfl (by simp [Advances]) (by simp [Portless])
  case slt => exact binaryOp_cases (f := fun a b => boolWord (signed a < signed b)) h rfl (by simp [Advances]) (by simp [Portless])
  case sgt => exact binaryOp_cases (f := fun a b => boolWord (signed b < signed a)) h rfl (by simp [Advances]) (by simp [Portless])
  case eq => exact binaryOp_cases (f := fun a b => boolWord (a = b)) h rfl (by simp [Advances]) (by simp [Portless])
  case iszero => exact unaryOp_cases (f := fun a => boolWord (a = 0)) h rfl (by simp [Advances]) (by simp [Portless])
  case not => exact unaryOp_cases (f := fun a => ~~~a) h rfl (by simp [Advances]) (by simp [Portless])
  case and => exact binaryOp_cases (f := fun a b => a &&& b) h rfl (by simp [Advances]) (by simp [Portless])
  case or => exact binaryOp_cases (f := fun a b => a ||| b) h rfl (by simp [Advances]) (by simp [Portless])
  case xor => exact binaryOp_cases (f := fun a b => a ^^^ b) h rfl (by simp [Advances]) (by simp [Portless])
  case add | mul | sub | div | sdiv | mod | smod | signextend | byte | shl | shr | sar =>
    exact binaryOp_cases h rfl (by simp [Advances]) (by simp [Portless])
  case addmod | mulmod => exact ternaryOp_cases h rfl (by simp [Advances]) (by simp [Portless])
  case pc => exact pushOp_cases (f := fun s' => s'.pc.setWidth 256) h rfl (by simp [Advances]) (by simp [Portless])
  case msize => exact pushOp_cases h rfl (by simp [Advances]) (by simp [Portless])
  case gas => exact pushOp_cases (f := fun s' => s'.gas.setWidth 256) h rfl (by simp [Advances]) (by simp [Portless])
  case push1 imm => exact pushOp_cases (f := fun _ => imm) h rfl (by simp [Advances]) (by simp [Portless])
  case push2 imm => exact pushOp_cases (f := fun _ => imm) h rfl (by simp [Advances]) (by simp [Portless])
  case push3 imm => exact pushOp_cases (f := fun _ => imm) h rfl (by simp [Advances]) (by simp [Portless])
  case push4 imm => exact pushOp_cases (f := fun _ => imm) h rfl (by simp [Advances]) (by simp [Portless])
  case push5 imm => exact pushOp_cases (f := fun _ => imm) h rfl (by simp [Advances]) (by simp [Portless])
  case push6 imm => exact pushOp_cases (f := fun _ => imm) h rfl (by simp [Advances]) (by simp [Portless])
  case push7 imm => exact pushOp_cases (f := fun _ => imm) h rfl (by simp [Advances]) (by simp [Portless])
  case push8 imm => exact pushOp_cases (f := fun _ => imm) h rfl (by simp [Advances]) (by simp [Portless])
  case push9 imm => exact pushOp_cases (f := fun _ => imm) h rfl (by simp [Advances]) (by simp [Portless])
  case push10 imm => exact pushOp_cases (f := fun _ => imm) h rfl (by simp [Advances]) (by simp [Portless])
  case push11 imm => exact pushOp_cases (f := fun _ => imm) h rfl (by simp [Advances]) (by simp [Portless])
  case push12 imm => exact pushOp_cases (f := fun _ => imm) h rfl (by simp [Advances]) (by simp [Portless])
  case push13 imm => exact pushOp_cases (f := fun _ => imm) h rfl (by simp [Advances]) (by simp [Portless])
  case push14 imm => exact pushOp_cases (f := fun _ => imm) h rfl (by simp [Advances]) (by simp [Portless])
  case push15 imm => exact pushOp_cases (f := fun _ => imm) h rfl (by simp [Advances]) (by simp [Portless])
  case push16 imm => exact pushOp_cases (f := fun _ => imm) h rfl (by simp [Advances]) (by simp [Portless])
  case push17 imm => exact pushOp_cases (f := fun _ => imm) h rfl (by simp [Advances]) (by simp [Portless])
  case push18 imm => exact pushOp_cases (f := fun _ => imm) h rfl (by simp [Advances]) (by simp [Portless])
  case push19 imm => exact pushOp_cases (f := fun _ => imm) h rfl (by simp [Advances]) (by simp [Portless])
  case push20 imm => exact pushOp_cases (f := fun _ => imm) h rfl (by simp [Advances]) (by simp [Portless])
  case push21 imm => exact pushOp_cases (f := fun _ => imm) h rfl (by simp [Advances]) (by simp [Portless])
  case push22 imm => exact pushOp_cases (f := fun _ => imm) h rfl (by simp [Advances]) (by simp [Portless])
  case push23 imm => exact pushOp_cases (f := fun _ => imm) h rfl (by simp [Advances]) (by simp [Portless])
  case push24 imm => exact pushOp_cases (f := fun _ => imm) h rfl (by simp [Advances]) (by simp [Portless])
  case push25 imm => exact pushOp_cases (f := fun _ => imm) h rfl (by simp [Advances]) (by simp [Portless])
  case push26 imm => exact pushOp_cases (f := fun _ => imm) h rfl (by simp [Advances]) (by simp [Portless])
  case push27 imm => exact pushOp_cases (f := fun _ => imm) h rfl (by simp [Advances]) (by simp [Portless])
  case push28 imm => exact pushOp_cases (f := fun _ => imm) h rfl (by simp [Advances]) (by simp [Portless])
  case push29 imm => exact pushOp_cases (f := fun _ => imm) h rfl (by simp [Advances]) (by simp [Portless])
  case push30 imm => exact pushOp_cases (f := fun _ => imm) h rfl (by simp [Advances]) (by simp [Portless])
  case push31 imm => exact pushOp_cases (f := fun _ => imm) h rfl (by simp [Advances]) (by simp [Portless])
  case push32 imm => exact pushOp_cases (f := fun _ => imm) h rfl (by simp [Advances]) (by simp [Portless])
  case dup1 => exact dupWord_cases (k := 1) h rfl (by simp [Advances]) (by simp [Portless])
  case dup2 => exact dupWord_cases (k := 2) h rfl (by simp [Advances]) (by simp [Portless])
  case dup3 => exact dupWord_cases (k := 3) h rfl (by simp [Advances]) (by simp [Portless])
  case dup4 => exact dupWord_cases (k := 4) h rfl (by simp [Advances]) (by simp [Portless])
  case dup5 => exact dupWord_cases (k := 5) h rfl (by simp [Advances]) (by simp [Portless])
  case dup6 => exact dupWord_cases (k := 6) h rfl (by simp [Advances]) (by simp [Portless])
  case dup7 => exact dupWord_cases (k := 7) h rfl (by simp [Advances]) (by simp [Portless])
  case dup8 => exact dupWord_cases (k := 8) h rfl (by simp [Advances]) (by simp [Portless])
  case dup9 => exact dupWord_cases (k := 9) h rfl (by simp [Advances]) (by simp [Portless])
  case dup10 => exact dupWord_cases (k := 10) h rfl (by simp [Advances]) (by simp [Portless])
  case dup11 => exact dupWord_cases (k := 11) h rfl (by simp [Advances]) (by simp [Portless])
  case dup12 => exact dupWord_cases (k := 12) h rfl (by simp [Advances]) (by simp [Portless])
  case dup13 => exact dupWord_cases (k := 13) h rfl (by simp [Advances]) (by simp [Portless])
  case dup14 => exact dupWord_cases (k := 14) h rfl (by simp [Advances]) (by simp [Portless])
  case dup15 => exact dupWord_cases (k := 15) h rfl (by simp [Advances]) (by simp [Portless])
  case dup16 => exact dupWord_cases (k := 16) h rfl (by simp [Advances]) (by simp [Portless])
  case swap1 => exact swapWords_cases (k := 1) (by simp [Advances]) (by simp [Portless]) rfl h
  case swap2 => exact swapWords_cases (k := 2) (by simp [Advances]) (by simp [Portless]) rfl h
  case swap3 => exact swapWords_cases (k := 3) (by simp [Advances]) (by simp [Portless]) rfl h
  case swap4 => exact swapWords_cases (k := 4) (by simp [Advances]) (by simp [Portless]) rfl h
  case swap5 => exact swapWords_cases (k := 5) (by simp [Advances]) (by simp [Portless]) rfl h
  case swap6 => exact swapWords_cases (k := 6) (by simp [Advances]) (by simp [Portless]) rfl h
  case swap7 => exact swapWords_cases (k := 7) (by simp [Advances]) (by simp [Portless]) rfl h
  case swap8 => exact swapWords_cases (k := 8) (by simp [Advances]) (by simp [Portless]) rfl h
  case swap9 => exact swapWords_cases (k := 9) (by simp [Advances]) (by simp [Portless]) rfl h
  case swap10 => exact swapWords_cases (k := 10) (by simp [Advances]) (by simp [Portless]) rfl h
  case swap11 => exact swapWords_cases (k := 11) (by simp [Advances]) (by simp [Portless]) rfl h
  case swap12 => exact swapWords_cases (k := 12) (by simp [Advances]) (by simp [Portless]) rfl h
  case swap13 => exact swapWords_cases (k := 13) (by simp [Advances]) (by simp [Portless]) rfl h
  case swap14 => exact swapWords_cases (k := 14) (by simp [Advances]) (by simp [Portless]) rfl h
  case swap15 => exact swapWords_cases (k := 15) (by simp [Advances]) (by simp [Portless]) rfl h
  case swap16 => exact swapWords_cases (k := 16) (by simp [Advances]) (by simp [Portless]) rfl h

theorem charge_next {n : Nat} {s : State} {k : State → Result} (h : ∀ s', ∃ t, k s' = .next t) :
    ∃ t, charge n s k = .next t := by
  rw [charge]; split
  · exact ⟨_, rfl⟩
  · exact h _

theorem dispatch_next {i : Instr} {s : State} {k : State → Result} (h : ∀ s', ∃ t, k s' = .next t) :
    ∃ t, dispatch i s k = .next t :=
  charge_next fun s' => by
    split
    · exact ⟨_, rfl⟩
    · split
      · exact ⟨_, rfl⟩
      · exact h _

theorem expand_next {off size : Nat} {s : State} {k : State → Result}
    (h : ∀ s', ∃ t, k s' = .next t) : ∃ t, expand off size s k = .next t := by
  rw [expand]
  split
  · exact h _
  · split
    · exact ⟨_, rfl⟩
    · split
      · exact charge_next fun s' => h _
      · exact h _

theorem jumpTo_next (w : Word) (k : Nat) (s : State) : ∃ t, jumpTo w k s = .next t := by
  rw [jumpTo]; split <;> exact ⟨_, rfl⟩

theorem computeWord_next (i : Instr) (n : Nat) (f : State → Word) (s : State) :
    ∃ t, computeWord i n f s = .next t := dispatch_next fun _ => ⟨_, rfl⟩

theorem swapWords_next (i : Instr) (k : Nat) (s : State) : ∃ t, swapWords i k s = .next t :=
  dispatch_next fun _ => ⟨_, rfl⟩

theorem haltWithData_next (i : Instr) (k : OutcomeKind) (s : State) :
    ∃ t, haltWithData i k s = .next t := dispatch_next fun _ => expand_next fun _ => ⟨_, rfl⟩

theorem execMload_next (s : State) : ∃ t, execMload s = .next t := by
  unfold execMload; exact dispatch_next fun _ => expand_next fun _ => ⟨_, rfl⟩

theorem execMstore_next (s : State) : ∃ t, execMstore s = .next t := by
  unfold execMstore; exact dispatch_next fun _ => expand_next fun _ => ⟨_, rfl⟩

theorem execMstore8_next (s : State) : ∃ t, execMstore8 s = .next t := by
  unfold execMstore8; exact dispatch_next fun _ => expand_next fun _ => ⟨_, rfl⟩

theorem execSload_next (s : State) : ∃ t, execSload s = .next t := by
  unfold execSload; exact dispatch_next fun _ => charge_next fun _ => ⟨_, rfl⟩

theorem execSstore_next (s : State) : ∃ t, execSstore s = .next t := by
  unfold execSstore; exact dispatch_next fun _ => charge_next fun _ => ⟨_, rfl⟩

theorem execExp_next (s : State) : ∃ t, execExp s = .next t := by
  unfold execExp; exact dispatch_next fun _ => charge_next fun _ => ⟨_, rfl⟩

theorem execJumpi_next (s : State) : ∃ t, execJumpi s = .next t := by
  unfold execJumpi
  refine dispatch_next fun _ => ?_
  split
  · exact jumpTo_next _ _ _
  · split <;> exact ⟨_, rfl⟩

/-- No instruction stops: each answers a next state, whatever the state (R46). -/
theorem exec_next (i : Instr) (s : State) : ∃ t, exec i s = .next t := by
  cases i
  case pop => exact dispatch_next fun _ => ⟨_, rfl⟩
  case jumpdest => exact dispatch_next fun _ => ⟨_, rfl⟩
  case exp => exact execExp_next s
  case jump => exact dispatch_next fun _ => jumpTo_next _ _ _
  case jumpi => exact execJumpi_next s
  case mload => exact execMload_next s
  case mstore => exact execMstore_next s
  case mstore8 => exact execMstore8_next s
  case ret => exact haltWithData_next _ _ _
  case revert => exact haltWithData_next _ _ _
  case stop => exact dispatch_next fun _ => ⟨_, rfl⟩
  case invalid => exact dispatch_next fun _ => ⟨_, rfl⟩
  case sload => exact execSload_next s
  case sstore => exact execSstore_next s
  case swap1 | swap2 | swap3 | swap4 | swap5 | swap6 | swap7 | swap8 | swap9 | swap10 | swap11 |
    swap12 | swap13 | swap14 | swap15 | swap16 => exact swapWords_next _ _ _
  case push1 imm => exact computeWord_next (.push1 imm) 0 (fun _ => imm) s
  case push2 imm => exact computeWord_next (.push2 imm) 0 (fun _ => imm) s
  case push3 imm => exact computeWord_next (.push3 imm) 0 (fun _ => imm) s
  case push4 imm => exact computeWord_next (.push4 imm) 0 (fun _ => imm) s
  case push5 imm => exact computeWord_next (.push5 imm) 0 (fun _ => imm) s
  case push6 imm => exact computeWord_next (.push6 imm) 0 (fun _ => imm) s
  case push7 imm => exact computeWord_next (.push7 imm) 0 (fun _ => imm) s
  case push8 imm => exact computeWord_next (.push8 imm) 0 (fun _ => imm) s
  case push9 imm => exact computeWord_next (.push9 imm) 0 (fun _ => imm) s
  case push10 imm => exact computeWord_next (.push10 imm) 0 (fun _ => imm) s
  case push11 imm => exact computeWord_next (.push11 imm) 0 (fun _ => imm) s
  case push12 imm => exact computeWord_next (.push12 imm) 0 (fun _ => imm) s
  case push13 imm => exact computeWord_next (.push13 imm) 0 (fun _ => imm) s
  case push14 imm => exact computeWord_next (.push14 imm) 0 (fun _ => imm) s
  case push15 imm => exact computeWord_next (.push15 imm) 0 (fun _ => imm) s
  case push16 imm => exact computeWord_next (.push16 imm) 0 (fun _ => imm) s
  case push17 imm => exact computeWord_next (.push17 imm) 0 (fun _ => imm) s
  case push18 imm => exact computeWord_next (.push18 imm) 0 (fun _ => imm) s
  case push19 imm => exact computeWord_next (.push19 imm) 0 (fun _ => imm) s
  case push20 imm => exact computeWord_next (.push20 imm) 0 (fun _ => imm) s
  case push21 imm => exact computeWord_next (.push21 imm) 0 (fun _ => imm) s
  case push22 imm => exact computeWord_next (.push22 imm) 0 (fun _ => imm) s
  case push23 imm => exact computeWord_next (.push23 imm) 0 (fun _ => imm) s
  case push24 imm => exact computeWord_next (.push24 imm) 0 (fun _ => imm) s
  case push25 imm => exact computeWord_next (.push25 imm) 0 (fun _ => imm) s
  case push26 imm => exact computeWord_next (.push26 imm) 0 (fun _ => imm) s
  case push27 imm => exact computeWord_next (.push27 imm) 0 (fun _ => imm) s
  case push28 imm => exact computeWord_next (.push28 imm) 0 (fun _ => imm) s
  case push29 imm => exact computeWord_next (.push29 imm) 0 (fun _ => imm) s
  case push30 imm => exact computeWord_next (.push30 imm) 0 (fun _ => imm) s
  case push31 imm => exact computeWord_next (.push31 imm) 0 (fun _ => imm) s
  case push32 imm => exact computeWord_next (.push32 imm) 0 (fun _ => imm) s
  case dup1 => exact computeWord_next .dup1 0 (fun s' => s'.S 0) s
  case dup2 => exact computeWord_next .dup2 0 (fun s' => s'.S 1) s
  case dup3 => exact computeWord_next .dup3 0 (fun s' => s'.S 2) s
  case dup4 => exact computeWord_next .dup4 0 (fun s' => s'.S 3) s
  case dup5 => exact computeWord_next .dup5 0 (fun s' => s'.S 4) s
  case dup6 => exact computeWord_next .dup6 0 (fun s' => s'.S 5) s
  case dup7 => exact computeWord_next .dup7 0 (fun s' => s'.S 6) s
  case dup8 => exact computeWord_next .dup8 0 (fun s' => s'.S 7) s
  case dup9 => exact computeWord_next .dup9 0 (fun s' => s'.S 8) s
  case dup10 => exact computeWord_next .dup10 0 (fun s' => s'.S 9) s
  case dup11 => exact computeWord_next .dup11 0 (fun s' => s'.S 10) s
  case dup12 => exact computeWord_next .dup12 0 (fun s' => s'.S 11) s
  case dup13 => exact computeWord_next .dup13 0 (fun s' => s'.S 12) s
  case dup14 => exact computeWord_next .dup14 0 (fun s' => s'.S 13) s
  case dup15 => exact computeWord_next .dup15 0 (fun s' => s'.S 14) s
  case dup16 => exact computeWord_next .dup16 0 (fun s' => s'.S 15) s
  case msize => exact computeWord_next .msize 0 State.msizeWord s
  case pc => exact computeWord_next .pc 0 (fun s' => s'.pc.setWidth 256) s
  case gas => exact computeWord_next .gas 0 (fun s' => s'.gas.setWidth 256) s
  case add =>
    exact computeWord_next .add 2 (fun s' => wordAdd (s'.S 0) (s'.S 1)) s
  case mul =>
    exact computeWord_next .mul 2 (fun s' => wordMul (s'.S 0) (s'.S 1)) s
  case sub =>
    exact computeWord_next .sub 2 (fun s' => wordSub (s'.S 0) (s'.S 1)) s
  case div =>
    exact computeWord_next .div 2 (fun s' => wordDiv (s'.S 0) (s'.S 1)) s
  case sdiv =>
    exact computeWord_next .sdiv 2 (fun s' => wordSdiv (s'.S 0) (s'.S 1)) s
  case mod =>
    exact computeWord_next .mod 2 (fun s' => wordMod (s'.S 0) (s'.S 1)) s
  case smod =>
    exact computeWord_next .smod 2 (fun s' => wordSmod (s'.S 0) (s'.S 1)) s
  case signextend =>
    exact computeWord_next .signextend 2 (fun s' => wordSignextend (s'.S 0) (s'.S 1)) s
  case byte =>
    exact computeWord_next .byte 2 (fun s' => wordByte (s'.S 0) (s'.S 1)) s
  case shl =>
    exact computeWord_next .shl 2 (fun s' => wordShl (s'.S 0) (s'.S 1)) s
  case shr =>
    exact computeWord_next .shr 2 (fun s' => wordShr (s'.S 0) (s'.S 1)) s
  case sar =>
    exact computeWord_next .sar 2 (fun s' => wordSar (s'.S 0) (s'.S 1)) s
  case addmod =>
    exact computeWord_next .addmod 3 (fun s' => wordAddmod (s'.S 0) (s'.S 1) (s'.S 2)) s
  case mulmod =>
    exact computeWord_next .mulmod 3 (fun s' => wordMulmod (s'.S 0) (s'.S 1) (s'.S 2)) s
  case lt => unfold exec execLt; exact computeWord_next _ _ _ _
  case gt => unfold exec execGt; exact computeWord_next _ _ _ _
  case slt => unfold exec execSlt; exact computeWord_next _ _ _ _
  case sgt => unfold exec execSgt; exact computeWord_next _ _ _ _
  case eq => unfold exec execEq; exact computeWord_next _ _ _ _
  case iszero => unfold exec execIszero; exact computeWord_next _ _ _ _
  case and => unfold exec execAnd; exact computeWord_next _ _ _ _
  case or => unfold exec execOr; exact computeWord_next _ _ _ _
  case xor => unfold exec execXor; exact computeWord_next _ _ _ _
  case not => unfold exec execNot; exact computeWord_next _ _ _ _

end Sys2Proof.Machine
end

