-- ==== Sys2Proof/Laws/Step.lean ====
section
/-! SUPPORT. Everything one step can do (spec/40_execution_loop.md R150). -/

namespace Sys2Proof.Machine

/-- Everything a step that answers a next state can do: the implicit stop, a fault of an unassigned
byte, or one instruction that faulted or ran. -/
theorem step_cases {s t : State} (h : step s = .next t) :
    s.halted = false ∧
      ((decode s.fetchBytes = .endOfCode ∧ t = s.finish .stop []) ∨
       (∃ op, decode s.fetchBytes = .unassigned op ∧ Faulted .invalid s t) ∨
       (∃ i, decode s.fetchBytes = .instr i ∧ (Faulted i s t ∨ Ran i s t))) := by
  rw [step] at h
  split at h
  · cases h
  · rename_i hh
    refine ⟨by simpa using hh, ?_⟩
    split at h
    · rename_i hd
      exact .inl ⟨hd, by simpa [stopAtEndOfCode, halt, eq_comm] using h⟩
    · cases h
    · rename_i op hd
      exact .inr (.inl ⟨op, hd, invalidOpcode_faulted h⟩)
    · rename_i i hd
      exact .inr (.inr ⟨i, hd, exec_cases h⟩)

/-- A running state steps to a next state or is refused; a step never faults before the halt (R46). -/
theorem step_running {s : State} (h : s.halted = false) :
    (∃ t, step s = .next t) ∨ ∃ op, step s = .refused (.refusedByte op) := by
  simp only [step, h, Bool.false_eq_true, if_false]
  split
  · exact .inl ⟨_, rfl⟩
  · exact .inr ⟨_, rfl⟩
  · exact .inl (dispatch_next fun _ => ⟨_, rfl⟩)
  · exact .inl (exec_next _ _)

/-- `status` says halted exactly for the nine outcomes of R441. -/
theorem haltedStatus_halted (k : OutcomeKind) : (haltedStatus k).getLsbD 0 = true := by
  cases k <;> decide

theorem haltedStatus_inj {x y : OutcomeKind} (h : haltedStatus x = haltedStatus y) : x = y := by
  revert h; cases x <;> cases y <;> decide

/-- A state whose status is an outcome is halted. -/
theorem State.halted_of_status {s : State} {k : OutcomeKind} (h : s.status = haltedStatus k) :
    s.halted = true := by
  rw [State.halted, h, haltedStatus_halted]

/-- An instruction's length is its encoding's, and the fetched bytes are the code from the pc on. -/
theorem State.fetchBytes_cons {s : State} {op : Byte} {rest : List Byte}
    (h : s.fetchBytes = op :: rest) :
    s.code[s.pc.toNat]? = some op ∧ rest = s.code.drop (s.pc.toNat + 1) := by
  rw [State.fetchBytes] at h
  have h1 := congrArg (fun l => l[0]?) h
  have h2 := congrArg (List.drop 1) h
  simp only [List.getElem?_drop, Nat.add_zero, List.getElem?_cons_zero] at h1
  simp only [List.drop_drop, List.drop_succ_cons, List.drop_zero] at h2
  exact ⟨h1, h2.symm⟩

theorem State.fetchBytes_of_get {s : State} {op : Byte} (h : s.code[s.pc.toNat]? = some op) :
    s.fetchBytes = op :: s.code.drop (s.pc.toNat + 1) := by
  have hl : s.pc.toNat < s.code.length := by
    by_contra hn
    rw [List.getElem?_eq_none (by omega)] at h
    cases h
  rw [State.fetchBytes, List.drop_eq_getElem_cons hl]
  rw [List.getElem?_eq_getElem hl, Option.some_inj] at h
  rw [h]

/-! ### Runs -/

/-- A run whose first step answers a next state goes on from there. -/
theorem run_next {s t : State} (n : Nat) (h : step s = .next t) :
    core.run (n + 1) s = core.run n t := by
  have e : core.step s = .next t := h
  simp only [Host.Core.run, e]

/-- A run stops at a refusal. -/
theorem run_refused {s : State} {r : Refusal} (n : Nat) (h : step s = .refused r) :
    core.run (n + 1) s = .refused r := by
  have e : core.step s = .refused r := h
  simp only [Host.Core.run, e]

/-- What holds of a state and is kept by every step holds of every state a run answers. -/
theorem run_keeps {P : State → Prop} (hP : ∀ s t, P s → step s = .next t → P t) {n : Nat}
    {s u : State} (h0 : P s) (h : core.run n s = .next u) : P u := by
  induction n generalizing s with
  | zero =>
    simp only [Host.Core.run] at h
    injection h with h
    exact h ▸ h0
  | succ n ih =>
    simp only [Host.Core.run] at h
    split at h
    · rename_i t ht
      exact ih (hP _ _ h0 ht) h
    · cases h
    · cases h

end Sys2Proof.Machine
end

