-- ==== Sys2Proof/Laws/Execute.lean ====
section
/-! SUPPORT. What a run to the halt can answer (Sys2Proof/Machine/Execute.lean). -/

namespace Sys2Proof.Machine

/-- A halted state is its own end, whatever the bound. -/
@[simp] theorem runToHalt_of_halted {s : State} (h : s.halted = true) (n : Nat) :
    runToHalt n s = .next s := by
  cases n <;> simp [runToHalt, h]

/-- A running state runs to the halt by one step and the rest. -/
theorem runToHalt_of_step {s t : State} (h : s.halted = false) (ht : step s = .next t) (n : Nat) :
    runToHalt (n + 1) s = runToHalt n t := by
  simp [runToHalt, h, ht]

/-- A running state at a refused byte ends refused. -/
theorem runToHalt_of_refused {s : State} {r : Refusal} (h : s.halted = false)
    (hr : step s = .refused r) (n : Nat) : runToHalt (n + 1) s = .refused r := by
  simp [runToHalt, h, hr]

/-- Everything `runToHalt` can answer: a halted state that the machine reaches within the bound, a refused
byte that it meets within the bound, or the bound used up. It never answers a fault. -/
theorem runToHalt_cases (n : Nat) (s : State) :
    (∃ m u, m ≤ n ∧ runToHalt n s = .next u ∧ core.run m s = .next u ∧ u.halted = true) ∨
    (∃ m op, m ≤ n ∧ runToHalt n s = .refused (.refusedByte op) ∧
      core.run m s = .refused (.refusedByte op)) ∨
    runToHalt n s = .refused .stepBoundSpent := by
  induction n generalizing s with
  | zero =>
    cases h : s.halted with
    | true => exact .inl ⟨0, s, Nat.le_refl _, runToHalt_of_halted h 0, rfl, h⟩
    | false => exact .inr (.inr (by simp [runToHalt, h]))
  | succ n ih =>
    cases h : s.halted with
    | true => exact .inl ⟨0, s, Nat.zero_le _, runToHalt_of_halted h _, rfl, h⟩
    | false =>
      rcases step_running h with ⟨t, ht⟩ | ⟨op, hr⟩
      · rw [runToHalt_of_step h ht]
        rcases ih t with ⟨m, u, hm, ho, hr, hu⟩ | ⟨m, op, hm, ho, hr⟩ | ho
        · exact .inl ⟨m + 1, u, by omega, ho, by rw [run_next m ht]; exact hr, hu⟩
        · exact .inr (.inl ⟨m + 1, op, by omega, ho, by rw [run_next m ht]; exact hr⟩)
        · exact .inr (.inr ho)
      · exact .inr (.inl ⟨1, op, by omega, runToHalt_of_refused h hr n, run_refused 0 hr⟩)

end Sys2Proof.Machine
end

