-- ==== Sys2Proof/Laws/Forms.lean ====
section
/-! SUPPORT. Every meaning is a `dispatch` over a handler, and what the shared instruction forms answer
once the checks of R150 pass. -/

namespace Sys2Proof.Machine

/-- Every instruction makes the checks of R150 before its handler. -/
theorem exec_dispatch (i : Instr) (s : State) : ∃ k, exec i s = dispatch i s k := by
  cases i
  all_goals
    simp only [exec, execStop, execAdd, execMul, execSub, execDiv, execSdiv, execMod, execSmod,
      execAddmod, execMulmod, execExp, execSignextend, execLt, execGt, execSlt, execSgt, execEq,
      execIszero, execAnd, execOr, execXor, execNot, execByte, execShl, execShr, execSar, execPop,
      execMload, execMstore, execMstore8, execSload, execSstore, execJump, execJumpi, execPc,
      execMsize, execGas, execJumpdest, execPush1, execPush2, execPush3, execPush4, execPush5,
      execPush6, execPush7, execPush8, execPush9, execPush10, execPush11, execPush12, execPush13,
      execPush14, execPush15, execPush16, execPush17, execPush18, execPush19, execPush20,
      execPush21, execPush22, execPush23, execPush24, execPush25, execPush26, execPush27,
      execPush28, execPush29, execPush30, execPush31, execPush32, execDup1, execDup2, execDup3,
      execDup4, execDup5, execDup6, execDup7, execDup8, execDup9, execDup10, execDup11, execDup12,
      execDup13, execDup14, execDup15, execDup16, execSwap1, execSwap2, execSwap3, execSwap4,
      execSwap5, execSwap6, execSwap7, execSwap8, execSwap9, execSwap10, execSwap11, execSwap12,
      execSwap13, execSwap14, execSwap15, execSwap16, execReturn, execRevert, execInvalid,
      unaryOp, binaryOp, ternaryOp, pushOp, pushImmediate, dupWord, swapWords, computeWord,
      haltWithData, invalidOpcode]
    exact ⟨_, rfl⟩

/-- A charge, a new stack and the default advance, as the state a rule describes. -/
theorem State.done_eq {s : State} {cost : Nat} (stack : List Word) (len : Nat)
    (h : cost ≤ s.gas.toNat) :
    ((s.spend cost).setStack stack).advance len = s.done cost stack len := by
  have e := State.spend_gas_eq h
  simp only [State.advance, State.setPc, State.setStack, State.done, State.spend] at e ⊢
  rw [e]

/-- A charge and a halt, as the state a rule describes. -/
theorem State.haltedWith_eq {s : State} {cost : Nat} (stack : List Word) (k : OutcomeKind)
    (data : List Byte) (h : cost ≤ s.gas.toNat) :
    ((s.spend cost).setStack stack).finish k data = s.haltedWith cost stack k data := by
  have e := State.spend_gas_eq h
  simp only [State.finish, State.setStack, State.haltedWith, State.spend] at e ⊢
  rw [e]

/-- Past the checks, an instruction that computes one word is done. -/
theorem computeWord_done {i : Instr} {s : State} (n : Nat) (f : State → Word) (h : Dispatched i s) :
    computeWord i n f s = .next (s.done (s.baseGas (opcode i))
      (f (s.spend (s.baseGas (opcode i))) :: s.stack.drop n) i.length) := by
  rw [computeWord, dispatch_ok h, ← State.done_eq _ _ h.gas]
  rfl

/-- Past the checks, SWAPk is done. -/
theorem swapWords_done {i : Instr} {s : State} (k : Nat) (h : Dispatched i s) :
    swapWords i k s = .next (s.done (s.baseGas (opcode i))
      ((s.stack.set 0 (s.S k)).set k (s.S 0)) i.length) := by
  rw [swapWords, dispatch_ok h, ← State.done_eq _ _ h.gas]
  rfl

/-- `Expand` after a charge that the gas covered, where every listed byte exists: the ceiling (R68),
then the expansion charge (R67), else the handler goes on with the longer memory. -/
theorem expand_spend {s : State} {base : Nat} (hm : ∀ c ∈ s.mem, c.1 < s.msize)
    (hg : base ≤ s.gas.toNat) (off size : Nat) (k : State → Result) :
    (s.overCeiling off size →
      expand off size (s.spend base) k = .next (s.faulted .memoryLimitExceeded base)) ∧
    (¬ s.overCeiling off size → s.gas.toNat < base + s.accessCost off size →
      expand off size (s.spend base) k = .next (s.faulted .outOfGas base)) ∧
    (¬ s.overCeiling off size → base + s.accessCost off size ≤ s.gas.toNat →
      expand off size (s.spend base) k =
        k { s.spend (base + s.accessCost off size) with msize := s.reach off size }) := by
  refine ⟨fun h => ?_, fun h h' => ?_, fun h h' => ?_⟩
  · rw [expand_overCeiling (s := s.spend base) h, raise_spend _ hg]
  · rw [expand_eq (s := s.spend base) h,
      charge_fail (by rw [State.accessCost_spend, State.spend_toNat hg]; omega), raise_spend _ hg]
  · rw [expand_eq (s := s.spend base) h,
      charge_ok (by rw [State.accessCost_spend, State.spend_toNat hg]; omega),
      State.accessCost_spend, State.spend_spend,
      State.expanded_eq (s := s.spend (base + s.accessCost off size)) _ _ hm]
    rfl

/-- `S[i]` of a stack written out. -/
theorem State.S_of_stack {s : State} {l : List Word} (h : s.stack = l) (i : Nat) :
    s.S i = l.getD i 0 := by rw [State.S, h]

end Sys2Proof.Machine
end

