-- ==== Sys2Proof/Laws/PerInstr.lean ====
section
/-! SUPPORT. What holds of every instruction as syntax, one lemma per constructor. -/

/-- The encoding of an instruction: one opcode byte, then its immediate bytes, 1 to 33 bytes in all, and
its opcode byte alone tells the length (R100, R101, R102). -/
def Sys2Proof.Laws.Encoding.Statement (i : Sys2Proof.Instr) : Prop :=
  (Sys2Proof.encode i).length = i.length ∧ (Sys2Proof.encode i).head? = some (Sys2Proof.opcode i) ∧
  i.length = 1 + Sys2Proof.immediateBytes (Sys2Proof.opcode i) ∧
  1 ≤ i.length ∧ i.length ≤ Sys2Proof.longestInstr

theorem Sys2Proof.Laws.Encoding.of_immediate (i : Sys2Proof.Instr) (h : i.immediate.1 ≤ 32) :
    Sys2Proof.Laws.Encoding.Statement i := by
  refine ⟨?_, rfl, Sys2Proof.length_eq i, Nat.le_add_right _ _, ?_⟩
  · rw [Sys2Proof.encode, List.length_cons, Sys2Proof.beBytes_length, Nat.add_comm]
    rfl
  · simp only [Sys2Proof.Instr.length, Sys2Proof.longestInstr]
    omega

theorem Sys2Proof.Laws.Encoding.stop : Sys2Proof.Laws.Encoding.Statement .stop :=
  Sys2Proof.Laws.Encoding.of_immediate _ (Nat.le_of_ble_eq_true rfl)

theorem Sys2Proof.Laws.Encoding.add : Sys2Proof.Laws.Encoding.Statement .add :=
  Sys2Proof.Laws.Encoding.of_immediate _ (Nat.le_of_ble_eq_true rfl)

theorem Sys2Proof.Laws.Encoding.mul : Sys2Proof.Laws.Encoding.Statement .mul :=
  Sys2Proof.Laws.Encoding.of_immediate _ (Nat.le_of_ble_eq_true rfl)

theorem Sys2Proof.Laws.Encoding.sub : Sys2Proof.Laws.Encoding.Statement .sub :=
  Sys2Proof.Laws.Encoding.of_immediate _ (Nat.le_of_ble_eq_true rfl)

theorem Sys2Proof.Laws.Encoding.div : Sys2Proof.Laws.Encoding.Statement .div :=
  Sys2Proof.Laws.Encoding.of_immediate _ (Nat.le_of_ble_eq_true rfl)

theorem Sys2Proof.Laws.Encoding.sdiv : Sys2Proof.Laws.Encoding.Statement .sdiv :=
  Sys2Proof.Laws.Encoding.of_immediate _ (Nat.le_of_ble_eq_true rfl)

theorem Sys2Proof.Laws.Encoding.mod : Sys2Proof.Laws.Encoding.Statement .mod :=
  Sys2Proof.Laws.Encoding.of_immediate _ (Nat.le_of_ble_eq_true rfl)

theorem Sys2Proof.Laws.Encoding.smod : Sys2Proof.Laws.Encoding.Statement .smod :=
  Sys2Proof.Laws.Encoding.of_immediate _ (Nat.le_of_ble_eq_true rfl)

theorem Sys2Proof.Laws.Encoding.addmod : Sys2Proof.Laws.Encoding.Statement .addmod :=
  Sys2Proof.Laws.Encoding.of_immediate _ (Nat.le_of_ble_eq_true rfl)

theorem Sys2Proof.Laws.Encoding.mulmod : Sys2Proof.Laws.Encoding.Statement .mulmod :=
  Sys2Proof.Laws.Encoding.of_immediate _ (Nat.le_of_ble_eq_true rfl)

theorem Sys2Proof.Laws.Encoding.exp : Sys2Proof.Laws.Encoding.Statement .exp :=
  Sys2Proof.Laws.Encoding.of_immediate _ (Nat.le_of_ble_eq_true rfl)

theorem Sys2Proof.Laws.Encoding.signextend : Sys2Proof.Laws.Encoding.Statement .signextend :=
  Sys2Proof.Laws.Encoding.of_immediate _ (Nat.le_of_ble_eq_true rfl)

theorem Sys2Proof.Laws.Encoding.lt : Sys2Proof.Laws.Encoding.Statement .lt :=
  Sys2Proof.Laws.Encoding.of_immediate _ (Nat.le_of_ble_eq_true rfl)

theorem Sys2Proof.Laws.Encoding.gt : Sys2Proof.Laws.Encoding.Statement .gt :=
  Sys2Proof.Laws.Encoding.of_immediate _ (Nat.le_of_ble_eq_true rfl)

theorem Sys2Proof.Laws.Encoding.slt : Sys2Proof.Laws.Encoding.Statement .slt :=
  Sys2Proof.Laws.Encoding.of_immediate _ (Nat.le_of_ble_eq_true rfl)

theorem Sys2Proof.Laws.Encoding.sgt : Sys2Proof.Laws.Encoding.Statement .sgt :=
  Sys2Proof.Laws.Encoding.of_immediate _ (Nat.le_of_ble_eq_true rfl)

theorem Sys2Proof.Laws.Encoding.eq : Sys2Proof.Laws.Encoding.Statement .eq :=
  Sys2Proof.Laws.Encoding.of_immediate _ (Nat.le_of_ble_eq_true rfl)

theorem Sys2Proof.Laws.Encoding.iszero : Sys2Proof.Laws.Encoding.Statement .iszero :=
  Sys2Proof.Laws.Encoding.of_immediate _ (Nat.le_of_ble_eq_true rfl)

theorem Sys2Proof.Laws.Encoding.and : Sys2Proof.Laws.Encoding.Statement .and :=
  Sys2Proof.Laws.Encoding.of_immediate _ (Nat.le_of_ble_eq_true rfl)

theorem Sys2Proof.Laws.Encoding.or : Sys2Proof.Laws.Encoding.Statement .or :=
  Sys2Proof.Laws.Encoding.of_immediate _ (Nat.le_of_ble_eq_true rfl)

theorem Sys2Proof.Laws.Encoding.xor : Sys2Proof.Laws.Encoding.Statement .xor :=
  Sys2Proof.Laws.Encoding.of_immediate _ (Nat.le_of_ble_eq_true rfl)

theorem Sys2Proof.Laws.Encoding.not : Sys2Proof.Laws.Encoding.Statement .not :=
  Sys2Proof.Laws.Encoding.of_immediate _ (Nat.le_of_ble_eq_true rfl)

theorem Sys2Proof.Laws.Encoding.byte : Sys2Proof.Laws.Encoding.Statement .byte :=
  Sys2Proof.Laws.Encoding.of_immediate _ (Nat.le_of_ble_eq_true rfl)

theorem Sys2Proof.Laws.Encoding.shl : Sys2Proof.Laws.Encoding.Statement .shl :=
  Sys2Proof.Laws.Encoding.of_immediate _ (Nat.le_of_ble_eq_true rfl)

theorem Sys2Proof.Laws.Encoding.shr : Sys2Proof.Laws.Encoding.Statement .shr :=
  Sys2Proof.Laws.Encoding.of_immediate _ (Nat.le_of_ble_eq_true rfl)

theorem Sys2Proof.Laws.Encoding.sar : Sys2Proof.Laws.Encoding.Statement .sar :=
  Sys2Proof.Laws.Encoding.of_immediate _ (Nat.le_of_ble_eq_true rfl)

theorem Sys2Proof.Laws.Encoding.pop : Sys2Proof.Laws.Encoding.Statement .pop :=
  Sys2Proof.Laws.Encoding.of_immediate _ (Nat.le_of_ble_eq_true rfl)

theorem Sys2Proof.Laws.Encoding.mload : Sys2Proof.Laws.Encoding.Statement .mload :=
  Sys2Proof.Laws.Encoding.of_immediate _ (Nat.le_of_ble_eq_true rfl)

theorem Sys2Proof.Laws.Encoding.mstore : Sys2Proof.Laws.Encoding.Statement .mstore :=
  Sys2Proof.Laws.Encoding.of_immediate _ (Nat.le_of_ble_eq_true rfl)

theorem Sys2Proof.Laws.Encoding.mstore8 : Sys2Proof.Laws.Encoding.Statement .mstore8 :=
  Sys2Proof.Laws.Encoding.of_immediate _ (Nat.le_of_ble_eq_true rfl)

theorem Sys2Proof.Laws.Encoding.sload : Sys2Proof.Laws.Encoding.Statement .sload :=
  Sys2Proof.Laws.Encoding.of_immediate _ (Nat.le_of_ble_eq_true rfl)

theorem Sys2Proof.Laws.Encoding.sstore : Sys2Proof.Laws.Encoding.Statement .sstore :=
  Sys2Proof.Laws.Encoding.of_immediate _ (Nat.le_of_ble_eq_true rfl)

theorem Sys2Proof.Laws.Encoding.jump : Sys2Proof.Laws.Encoding.Statement .jump :=
  Sys2Proof.Laws.Encoding.of_immediate _ (Nat.le_of_ble_eq_true rfl)

theorem Sys2Proof.Laws.Encoding.jumpi : Sys2Proof.Laws.Encoding.Statement .jumpi :=
  Sys2Proof.Laws.Encoding.of_immediate _ (Nat.le_of_ble_eq_true rfl)

theorem Sys2Proof.Laws.Encoding.pc : Sys2Proof.Laws.Encoding.Statement .pc :=
  Sys2Proof.Laws.Encoding.of_immediate _ (Nat.le_of_ble_eq_true rfl)

theorem Sys2Proof.Laws.Encoding.msize : Sys2Proof.Laws.Encoding.Statement .msize :=
  Sys2Proof.Laws.Encoding.of_immediate _ (Nat.le_of_ble_eq_true rfl)

theorem Sys2Proof.Laws.Encoding.gas : Sys2Proof.Laws.Encoding.Statement .gas :=
  Sys2Proof.Laws.Encoding.of_immediate _ (Nat.le_of_ble_eq_true rfl)

theorem Sys2Proof.Laws.Encoding.jumpdest : Sys2Proof.Laws.Encoding.Statement .jumpdest :=
  Sys2Proof.Laws.Encoding.of_immediate _ (Nat.le_of_ble_eq_true rfl)

theorem Sys2Proof.Laws.Encoding.push1 (imm : Sys2Proof.Word) :
    Sys2Proof.Laws.Encoding.Statement (.push1 imm) :=
  Sys2Proof.Laws.Encoding.of_immediate _ (Nat.le_of_ble_eq_true rfl)

theorem Sys2Proof.Laws.Encoding.push2 (imm : Sys2Proof.Word) :
    Sys2Proof.Laws.Encoding.Statement (.push2 imm) :=
  Sys2Proof.Laws.Encoding.of_immediate _ (Nat.le_of_ble_eq_true rfl)

theorem Sys2Proof.Laws.Encoding.push3 (imm : Sys2Proof.Word) :
    Sys2Proof.Laws.Encoding.Statement (.push3 imm) :=
  Sys2Proof.Laws.Encoding.of_immediate _ (Nat.le_of_ble_eq_true rfl)

theorem Sys2Proof.Laws.Encoding.push4 (imm : Sys2Proof.Word) :
    Sys2Proof.Laws.Encoding.Statement (.push4 imm) :=
  Sys2Proof.Laws.Encoding.of_immediate _ (Nat.le_of_ble_eq_true rfl)

theorem Sys2Proof.Laws.Encoding.push5 (imm : Sys2Proof.Word) :
    Sys2Proof.Laws.Encoding.Statement (.push5 imm) :=
  Sys2Proof.Laws.Encoding.of_immediate _ (Nat.le_of_ble_eq_true rfl)

theorem Sys2Proof.Laws.Encoding.push6 (imm : Sys2Proof.Word) :
    Sys2Proof.Laws.Encoding.Statement (.push6 imm) :=
  Sys2Proof.Laws.Encoding.of_immediate _ (Nat.le_of_ble_eq_true rfl)

theorem Sys2Proof.Laws.Encoding.push7 (imm : Sys2Proof.Word) :
    Sys2Proof.Laws.Encoding.Statement (.push7 imm) :=
  Sys2Proof.Laws.Encoding.of_immediate _ (Nat.le_of_ble_eq_true rfl)

theorem Sys2Proof.Laws.Encoding.push8 (imm : Sys2Proof.Word) :
    Sys2Proof.Laws.Encoding.Statement (.push8 imm) :=
  Sys2Proof.Laws.Encoding.of_immediate _ (Nat.le_of_ble_eq_true rfl)

theorem Sys2Proof.Laws.Encoding.push9 (imm : Sys2Proof.Word) :
    Sys2Proof.Laws.Encoding.Statement (.push9 imm) :=
  Sys2Proof.Laws.Encoding.of_immediate _ (Nat.le_of_ble_eq_true rfl)

theorem Sys2Proof.Laws.Encoding.push10 (imm : Sys2Proof.Word) :
    Sys2Proof.Laws.Encoding.Statement (.push10 imm) :=
  Sys2Proof.Laws.Encoding.of_immediate _ (Nat.le_of_ble_eq_true rfl)

theorem Sys2Proof.Laws.Encoding.push11 (imm : Sys2Proof.Word) :
    Sys2Proof.Laws.Encoding.Statement (.push11 imm) :=
  Sys2Proof.Laws.Encoding.of_immediate _ (Nat.le_of_ble_eq_true rfl)

theorem Sys2Proof.Laws.Encoding.push12 (imm : Sys2Proof.Word) :
    Sys2Proof.Laws.Encoding.Statement (.push12 imm) :=
  Sys2Proof.Laws.Encoding.of_immediate _ (Nat.le_of_ble_eq_true rfl)

theorem Sys2Proof.Laws.Encoding.push13 (imm : Sys2Proof.Word) :
    Sys2Proof.Laws.Encoding.Statement (.push13 imm) :=
  Sys2Proof.Laws.Encoding.of_immediate _ (Nat.le_of_ble_eq_true rfl)

theorem Sys2Proof.Laws.Encoding.push14 (imm : Sys2Proof.Word) :
    Sys2Proof.Laws.Encoding.Statement (.push14 imm) :=
  Sys2Proof.Laws.Encoding.of_immediate _ (Nat.le_of_ble_eq_true rfl)

theorem Sys2Proof.Laws.Encoding.push15 (imm : Sys2Proof.Word) :
    Sys2Proof.Laws.Encoding.Statement (.push15 imm) :=
  Sys2Proof.Laws.Encoding.of_immediate _ (Nat.le_of_ble_eq_true rfl)

theorem Sys2Proof.Laws.Encoding.push16 (imm : Sys2Proof.Word) :
    Sys2Proof.Laws.Encoding.Statement (.push16 imm) :=
  Sys2Proof.Laws.Encoding.of_immediate _ (Nat.le_of_ble_eq_true rfl)

theorem Sys2Proof.Laws.Encoding.push17 (imm : Sys2Proof.Word) :
    Sys2Proof.Laws.Encoding.Statement (.push17 imm) :=
  Sys2Proof.Laws.Encoding.of_immediate _ (Nat.le_of_ble_eq_true rfl)

theorem Sys2Proof.Laws.Encoding.push18 (imm : Sys2Proof.Word) :
    Sys2Proof.Laws.Encoding.Statement (.push18 imm) :=
  Sys2Proof.Laws.Encoding.of_immediate _ (Nat.le_of_ble_eq_true rfl)

theorem Sys2Proof.Laws.Encoding.push19 (imm : Sys2Proof.Word) :
    Sys2Proof.Laws.Encoding.Statement (.push19 imm) :=
  Sys2Proof.Laws.Encoding.of_immediate _ (Nat.le_of_ble_eq_true rfl)

theorem Sys2Proof.Laws.Encoding.push20 (imm : Sys2Proof.Word) :
    Sys2Proof.Laws.Encoding.Statement (.push20 imm) :=
  Sys2Proof.Laws.Encoding.of_immediate _ (Nat.le_of_ble_eq_true rfl)

theorem Sys2Proof.Laws.Encoding.push21 (imm : Sys2Proof.Word) :
    Sys2Proof.Laws.Encoding.Statement (.push21 imm) :=
  Sys2Proof.Laws.Encoding.of_immediate _ (Nat.le_of_ble_eq_true rfl)

theorem Sys2Proof.Laws.Encoding.push22 (imm : Sys2Proof.Word) :
    Sys2Proof.Laws.Encoding.Statement (.push22 imm) :=
  Sys2Proof.Laws.Encoding.of_immediate _ (Nat.le_of_ble_eq_true rfl)

theorem Sys2Proof.Laws.Encoding.push23 (imm : Sys2Proof.Word) :
    Sys2Proof.Laws.Encoding.Statement (.push23 imm) :=
  Sys2Proof.Laws.Encoding.of_immediate _ (Nat.le_of_ble_eq_true rfl)

theorem Sys2Proof.Laws.Encoding.push24 (imm : Sys2Proof.Word) :
    Sys2Proof.Laws.Encoding.Statement (.push24 imm) :=
  Sys2Proof.Laws.Encoding.of_immediate _ (Nat.le_of_ble_eq_true rfl)

theorem Sys2Proof.Laws.Encoding.push25 (imm : Sys2Proof.Word) :
    Sys2Proof.Laws.Encoding.Statement (.push25 imm) :=
  Sys2Proof.Laws.Encoding.of_immediate _ (Nat.le_of_ble_eq_true rfl)

theorem Sys2Proof.Laws.Encoding.push26 (imm : Sys2Proof.Word) :
    Sys2Proof.Laws.Encoding.Statement (.push26 imm) :=
  Sys2Proof.Laws.Encoding.of_immediate _ (Nat.le_of_ble_eq_true rfl)

theorem Sys2Proof.Laws.Encoding.push27 (imm : Sys2Proof.Word) :
    Sys2Proof.Laws.Encoding.Statement (.push27 imm) :=
  Sys2Proof.Laws.Encoding.of_immediate _ (Nat.le_of_ble_eq_true rfl)

theorem Sys2Proof.Laws.Encoding.push28 (imm : Sys2Proof.Word) :
    Sys2Proof.Laws.Encoding.Statement (.push28 imm) :=
  Sys2Proof.Laws.Encoding.of_immediate _ (Nat.le_of_ble_eq_true rfl)

theorem Sys2Proof.Laws.Encoding.push29 (imm : Sys2Proof.Word) :
    Sys2Proof.Laws.Encoding.Statement (.push29 imm) :=
  Sys2Proof.Laws.Encoding.of_immediate _ (Nat.le_of_ble_eq_true rfl)

theorem Sys2Proof.Laws.Encoding.push30 (imm : Sys2Proof.Word) :
    Sys2Proof.Laws.Encoding.Statement (.push30 imm) :=
  Sys2Proof.Laws.Encoding.of_immediate _ (Nat.le_of_ble_eq_true rfl)

theorem Sys2Proof.Laws.Encoding.push31 (imm : Sys2Proof.Word) :
    Sys2Proof.Laws.Encoding.Statement (.push31 imm) :=
  Sys2Proof.Laws.Encoding.of_immediate _ (Nat.le_of_ble_eq_true rfl)

theorem Sys2Proof.Laws.Encoding.push32 (imm : Sys2Proof.Word) :
    Sys2Proof.Laws.Encoding.Statement (.push32 imm) :=
  Sys2Proof.Laws.Encoding.of_immediate _ (Nat.le_of_ble_eq_true rfl)

theorem Sys2Proof.Laws.Encoding.dup1 : Sys2Proof.Laws.Encoding.Statement .dup1 :=
  Sys2Proof.Laws.Encoding.of_immediate _ (Nat.le_of_ble_eq_true rfl)

theorem Sys2Proof.Laws.Encoding.dup2 : Sys2Proof.Laws.Encoding.Statement .dup2 :=
  Sys2Proof.Laws.Encoding.of_immediate _ (Nat.le_of_ble_eq_true rfl)

theorem Sys2Proof.Laws.Encoding.dup3 : Sys2Proof.Laws.Encoding.Statement .dup3 :=
  Sys2Proof.Laws.Encoding.of_immediate _ (Nat.le_of_ble_eq_true rfl)

theorem Sys2Proof.Laws.Encoding.dup4 : Sys2Proof.Laws.Encoding.Statement .dup4 :=
  Sys2Proof.Laws.Encoding.of_immediate _ (Nat.le_of_ble_eq_true rfl)

theorem Sys2Proof.Laws.Encoding.dup5 : Sys2Proof.Laws.Encoding.Statement .dup5 :=
  Sys2Proof.Laws.Encoding.of_immediate _ (Nat.le_of_ble_eq_true rfl)

theorem Sys2Proof.Laws.Encoding.dup6 : Sys2Proof.Laws.Encoding.Statement .dup6 :=
  Sys2Proof.Laws.Encoding.of_immediate _ (Nat.le_of_ble_eq_true rfl)

theorem Sys2Proof.Laws.Encoding.dup7 : Sys2Proof.Laws.Encoding.Statement .dup7 :=
  Sys2Proof.Laws.Encoding.of_immediate _ (Nat.le_of_ble_eq_true rfl)

theorem Sys2Proof.Laws.Encoding.dup8 : Sys2Proof.Laws.Encoding.Statement .dup8 :=
  Sys2Proof.Laws.Encoding.of_immediate _ (Nat.le_of_ble_eq_true rfl)

theorem Sys2Proof.Laws.Encoding.dup9 : Sys2Proof.Laws.Encoding.Statement .dup9 :=
  Sys2Proof.Laws.Encoding.of_immediate _ (Nat.le_of_ble_eq_true rfl)

theorem Sys2Proof.Laws.Encoding.dup10 : Sys2Proof.Laws.Encoding.Statement .dup10 :=
  Sys2Proof.Laws.Encoding.of_immediate _ (Nat.le_of_ble_eq_true rfl)

theorem Sys2Proof.Laws.Encoding.dup11 : Sys2Proof.Laws.Encoding.Statement .dup11 :=
  Sys2Proof.Laws.Encoding.of_immediate _ (Nat.le_of_ble_eq_true rfl)

theorem Sys2Proof.Laws.Encoding.dup12 : Sys2Proof.Laws.Encoding.Statement .dup12 :=
  Sys2Proof.Laws.Encoding.of_immediate _ (Nat.le_of_ble_eq_true rfl)

theorem Sys2Proof.Laws.Encoding.dup13 : Sys2Proof.Laws.Encoding.Statement .dup13 :=
  Sys2Proof.Laws.Encoding.of_immediate _ (Nat.le_of_ble_eq_true rfl)

theorem Sys2Proof.Laws.Encoding.dup14 : Sys2Proof.Laws.Encoding.Statement .dup14 :=
  Sys2Proof.Laws.Encoding.of_immediate _ (Nat.le_of_ble_eq_true rfl)

theorem Sys2Proof.Laws.Encoding.dup15 : Sys2Proof.Laws.Encoding.Statement .dup15 :=
  Sys2Proof.Laws.Encoding.of_immediate _ (Nat.le_of_ble_eq_true rfl)

theorem Sys2Proof.Laws.Encoding.dup16 : Sys2Proof.Laws.Encoding.Statement .dup16 :=
  Sys2Proof.Laws.Encoding.of_immediate _ (Nat.le_of_ble_eq_true rfl)

theorem Sys2Proof.Laws.Encoding.swap1 : Sys2Proof.Laws.Encoding.Statement .swap1 :=
  Sys2Proof.Laws.Encoding.of_immediate _ (Nat.le_of_ble_eq_true rfl)

theorem Sys2Proof.Laws.Encoding.swap2 : Sys2Proof.Laws.Encoding.Statement .swap2 :=
  Sys2Proof.Laws.Encoding.of_immediate _ (Nat.le_of_ble_eq_true rfl)

theorem Sys2Proof.Laws.Encoding.swap3 : Sys2Proof.Laws.Encoding.Statement .swap3 :=
  Sys2Proof.Laws.Encoding.of_immediate _ (Nat.le_of_ble_eq_true rfl)

theorem Sys2Proof.Laws.Encoding.swap4 : Sys2Proof.Laws.Encoding.Statement .swap4 :=
  Sys2Proof.Laws.Encoding.of_immediate _ (Nat.le_of_ble_eq_true rfl)

theorem Sys2Proof.Laws.Encoding.swap5 : Sys2Proof.Laws.Encoding.Statement .swap5 :=
  Sys2Proof.Laws.Encoding.of_immediate _ (Nat.le_of_ble_eq_true rfl)

theorem Sys2Proof.Laws.Encoding.swap6 : Sys2Proof.Laws.Encoding.Statement .swap6 :=
  Sys2Proof.Laws.Encoding.of_immediate _ (Nat.le_of_ble_eq_true rfl)

theorem Sys2Proof.Laws.Encoding.swap7 : Sys2Proof.Laws.Encoding.Statement .swap7 :=
  Sys2Proof.Laws.Encoding.of_immediate _ (Nat.le_of_ble_eq_true rfl)

theorem Sys2Proof.Laws.Encoding.swap8 : Sys2Proof.Laws.Encoding.Statement .swap8 :=
  Sys2Proof.Laws.Encoding.of_immediate _ (Nat.le_of_ble_eq_true rfl)

theorem Sys2Proof.Laws.Encoding.swap9 : Sys2Proof.Laws.Encoding.Statement .swap9 :=
  Sys2Proof.Laws.Encoding.of_immediate _ (Nat.le_of_ble_eq_true rfl)

theorem Sys2Proof.Laws.Encoding.swap10 : Sys2Proof.Laws.Encoding.Statement .swap10 :=
  Sys2Proof.Laws.Encoding.of_immediate _ (Nat.le_of_ble_eq_true rfl)

theorem Sys2Proof.Laws.Encoding.swap11 : Sys2Proof.Laws.Encoding.Statement .swap11 :=
  Sys2Proof.Laws.Encoding.of_immediate _ (Nat.le_of_ble_eq_true rfl)

theorem Sys2Proof.Laws.Encoding.swap12 : Sys2Proof.Laws.Encoding.Statement .swap12 :=
  Sys2Proof.Laws.Encoding.of_immediate _ (Nat.le_of_ble_eq_true rfl)

theorem Sys2Proof.Laws.Encoding.swap13 : Sys2Proof.Laws.Encoding.Statement .swap13 :=
  Sys2Proof.Laws.Encoding.of_immediate _ (Nat.le_of_ble_eq_true rfl)

theorem Sys2Proof.Laws.Encoding.swap14 : Sys2Proof.Laws.Encoding.Statement .swap14 :=
  Sys2Proof.Laws.Encoding.of_immediate _ (Nat.le_of_ble_eq_true rfl)

theorem Sys2Proof.Laws.Encoding.swap15 : Sys2Proof.Laws.Encoding.Statement .swap15 :=
  Sys2Proof.Laws.Encoding.of_immediate _ (Nat.le_of_ble_eq_true rfl)

theorem Sys2Proof.Laws.Encoding.swap16 : Sys2Proof.Laws.Encoding.Statement .swap16 :=
  Sys2Proof.Laws.Encoding.of_immediate _ (Nat.le_of_ble_eq_true rfl)

theorem Sys2Proof.Laws.Encoding.ret : Sys2Proof.Laws.Encoding.Statement .ret :=
  Sys2Proof.Laws.Encoding.of_immediate _ (Nat.le_of_ble_eq_true rfl)

theorem Sys2Proof.Laws.Encoding.revert : Sys2Proof.Laws.Encoding.Statement .revert :=
  Sys2Proof.Laws.Encoding.of_immediate _ (Nat.le_of_ble_eq_true rfl)

theorem Sys2Proof.Laws.Encoding.invalid : Sys2Proof.Laws.Encoding.Statement .invalid :=
  Sys2Proof.Laws.Encoding.of_immediate _ (Nat.le_of_ble_eq_true rfl)
end

