-- ==== Sys2Proof/Tests/Slice0.lean ====
section
/-! SUPPORT. The model's own tests: ill-formed instructions, every opcode's encoding written out from
spec/30_encoding.md, single steps with the results of spec/95_test_vectors.md, and for every obligation
with hypotheses a state that meets them. -/

set_option Elab.async false

open Sys2Proof Sys2Proof.Machine

namespace Sys2Proof.Tests

/-! ### Well-formedness and encoding -/

/-- The one check of WellFormed: PUSHn with an immediate of more than `n` bytes is refused, and the
largest of `n` bytes is not (R111). An immediate of PUSH32 always fits. -/
theorem test_wellformed : ∀ p ∈ pushInstrs,
    (p.2 < 32 → ¬ (p.1 (BitVec.ofNat 256 (2 ^ (8 * p.2)))).WellFormed) ∧
    (p.1 (BitVec.ofNat 256 (2 ^ (8 * p.2) - 1))).WellFormed := by decide +kernel

theorem test_decode_halting : ∀ p ∈ ([
   ([0x00], .stop), ([0xF3], .ret), ([0xFD], .revert), ([0xFE], .invalid)] : List (List Byte ×
      Instr)),
    decode p.1 = .instr p.2 ∧ encode p.2 = p.1 := by decide +kernel

theorem test_decode_arithmetic : ∀ p ∈ ([
   ([0x01], .add), ([0x02], .mul), ([0x03], .sub), ([0x04], .div), ([0x05], .sdiv),
   ([0x06], .mod), ([0x07], .smod), ([0x08], .addmod), ([0x09], .mulmod), ([0x0A], .exp),
   ([0x0B], .signextend)] : List (List Byte × Instr)),
    decode p.1 = .instr p.2 ∧ encode p.2 = p.1 := by decide +kernel

theorem test_decode_compare : ∀ p ∈ ([
   ([0x10], .lt), ([0x11], .gt), ([0x12], .slt), ([0x13], .sgt), ([0x14], .eq),
   ([0x15], .iszero), ([0x16], .and), ([0x17], .or), ([0x18], .xor), ([0x19], .not),
   ([0x1A], .byte), ([0x1B], .shl), ([0x1C], .shr), ([0x1D], .sar)] : List (List Byte × Instr)),
    decode p.1 = .instr p.2 ∧ encode p.2 = p.1 := by decide +kernel

theorem test_decode_machine : ∀ p ∈ ([
   ([0x50], .pop), ([0x51], .mload), ([0x52], .mstore), ([0x53], .mstore8), ([0x54], .sload),
   ([0x55], .sstore), ([0x56], .jump), ([0x57], .jumpi), ([0x58], .pc), ([0x59], .msize),
   ([0x5A], .gas), ([0x5B], .jumpdest)] : List (List Byte × Instr)),
    decode p.1 = .instr p.2 ∧ encode p.2 = p.1 := by decide +kernel

theorem test_decode_push_low : ∀ p ∈ ([
   ([0x60, 0x01], .push1 0x01), ([0x61, 0x01, 0x02], .push2 0x0102),
   ([0x62, 0x01, 0x02, 0x03], .push3 0x010203),
   ([0x63, 0x01, 0x02, 0x03, 0x04], .push4 0x01020304),
   ([0x64, 0x01, 0x02, 0x03, 0x04, 0x05], .push5 0x0102030405),
   ([0x65, 0x01, 0x02, 0x03, 0x04, 0x05, 0x06], .push6 0x010203040506),
   ([0x66, 0x01, 0x02, 0x03, 0x04, 0x05, 0x06, 0x07], .push7 0x01020304050607),
   ([0x67, 0x01, 0x02, 0x03, 0x04, 0x05, 0x06, 0x07, 0x08], .push8 0x0102030405060708),
   ([0x68, 0x01, 0x02, 0x03, 0x04, 0x05, 0x06, 0x07, 0x08, 0x09], .push9 0x010203040506070809),
   ([0x69, 0x01, 0x02, 0x03, 0x04, 0x05, 0x06, 0x07, 0x08, 0x09, 0x0A],
      .push10 0x0102030405060708090A),
   ([0x6A, 0x01, 0x02, 0x03, 0x04, 0x05, 0x06, 0x07, 0x08, 0x09, 0x0A, 0x0B],
      .push11 0x0102030405060708090A0B),
   ([0x6B, 0x01, 0x02, 0x03, 0x04, 0x05, 0x06, 0x07, 0x08, 0x09, 0x0A, 0x0B, 0x0C],
      .push12 0x0102030405060708090A0B0C),
   ([0x6C, 0x01, 0x02, 0x03, 0x04, 0x05, 0x06, 0x07, 0x08, 0x09, 0x0A, 0x0B, 0x0C, 0x0D],
      .push13 0x0102030405060708090A0B0C0D),
   ([0x6D, 0x01, 0x02, 0x03, 0x04, 0x05, 0x06, 0x07, 0x08, 0x09, 0x0A, 0x0B, 0x0C, 0x0D, 0x0E],
      .push14 0x0102030405060708090A0B0C0D0E),
   ([0x6E, 0x01, 0x02, 0x03, 0x04, 0x05, 0x06, 0x07, 0x08, 0x09, 0x0A, 0x0B, 0x0C, 0x0D, 0x0E,
      0x0F],
      .push15 0x0102030405060708090A0B0C0D0E0F),
   ([0x6F, 0x01, 0x02, 0x03, 0x04, 0x05, 0x06, 0x07, 0x08, 0x09, 0x0A, 0x0B, 0x0C, 0x0D, 0x0E,
      0x0F, 0x10],
      .push16 0x0102030405060708090A0B0C0D0E0F10)] : List (List Byte × Instr)),
    decode p.1 = .instr p.2 ∧ encode p.2 = p.1 := by decide +kernel

theorem test_decode_push_high : ∀ p ∈ ([
   ([0x70, 0x01, 0x02, 0x03, 0x04, 0x05, 0x06, 0x07, 0x08, 0x09, 0x0A, 0x0B, 0x0C, 0x0D, 0x0E,
      0x0F, 0x10, 0x11],
      .push17 0x0102030405060708090A0B0C0D0E0F1011),
   ([0x71, 0x01, 0x02, 0x03, 0x04, 0x05, 0x06, 0x07, 0x08, 0x09, 0x0A, 0x0B, 0x0C, 0x0D, 0x0E,
      0x0F, 0x10, 0x11, 0x12],
      .push18 0x0102030405060708090A0B0C0D0E0F101112),
   ([0x72, 0x01, 0x02, 0x03, 0x04, 0x05, 0x06, 0x07, 0x08, 0x09, 0x0A, 0x0B, 0x0C, 0x0D, 0x0E,
      0x0F, 0x10, 0x11, 0x12, 0x13],
      .push19 0x0102030405060708090A0B0C0D0E0F10111213),
   ([0x73, 0x01, 0x02, 0x03, 0x04, 0x05, 0x06, 0x07, 0x08, 0x09, 0x0A, 0x0B, 0x0C, 0x0D, 0x0E,
      0x0F, 0x10, 0x11, 0x12, 0x13, 0x14],
      .push20 0x0102030405060708090A0B0C0D0E0F1011121314),
   ([0x74, 0x01, 0x02, 0x03, 0x04, 0x05, 0x06, 0x07, 0x08, 0x09, 0x0A, 0x0B, 0x0C, 0x0D, 0x0E,
      0x0F, 0x10, 0x11, 0x12, 0x13, 0x14, 0x15],
      .push21 0x0102030405060708090A0B0C0D0E0F101112131415),
   ([0x75, 0x01, 0x02, 0x03, 0x04, 0x05, 0x06, 0x07, 0x08, 0x09, 0x0A, 0x0B, 0x0C, 0x0D, 0x0E,
      0x0F, 0x10, 0x11, 0x12, 0x13, 0x14, 0x15, 0x16],
      .push22 0x0102030405060708090A0B0C0D0E0F10111213141516),
   ([0x76, 0x01, 0x02, 0x03, 0x04, 0x05, 0x06, 0x07, 0x08, 0x09, 0x0A, 0x0B, 0x0C, 0x0D, 0x0E,
      0x0F, 0x10, 0x11, 0x12, 0x13, 0x14, 0x15, 0x16, 0x17],
      .push23 0x0102030405060708090A0B0C0D0E0F1011121314151617),
   ([0x77, 0x01, 0x02, 0x03, 0x04, 0x05, 0x06, 0x07, 0x08, 0x09, 0x0A, 0x0B, 0x0C, 0x0D, 0x0E,
      0x0F, 0x10, 0x11, 0x12, 0x13, 0x14, 0x15, 0x16, 0x17, 0x18],
      .push24 0x0102030405060708090A0B0C0D0E0F101112131415161718),
   ([0x78, 0x01, 0x02, 0x03, 0x04, 0x05, 0x06, 0x07, 0x08, 0x09, 0x0A, 0x0B, 0x0C, 0x0D, 0x0E,
      0x0F, 0x10, 0x11, 0x12, 0x13, 0x14, 0x15, 0x16, 0x17, 0x18, 0x19],
      .push25 0x0102030405060708090A0B0C0D0E0F10111213141516171819),
   ([0x79, 0x01, 0x02, 0x03, 0x04, 0x05, 0x06, 0x07, 0x08, 0x09, 0x0A, 0x0B, 0x0C, 0x0D, 0x0E,
      0x0F, 0x10, 0x11, 0x12, 0x13, 0x14, 0x15, 0x16, 0x17, 0x18, 0x19, 0x1A],
      .push26 0x0102030405060708090A0B0C0D0E0F101112131415161718191A),
   ([0x7A, 0x01, 0x02, 0x03, 0x04, 0x05, 0x06, 0x07, 0x08, 0x09, 0x0A, 0x0B, 0x0C, 0x0D, 0x0E,
      0x0F, 0x10, 0x11, 0x12, 0x13, 0x14, 0x15, 0x16, 0x17, 0x18, 0x19, 0x1A, 0x1B],
      .push27 0x0102030405060708090A0B0C0D0E0F101112131415161718191A1B),
   ([0x7B, 0x01, 0x02, 0x03, 0x04, 0x05, 0x06, 0x07, 0x08, 0x09, 0x0A, 0x0B, 0x0C, 0x0D, 0x0E,
      0x0F, 0x10, 0x11, 0x12, 0x13, 0x14, 0x15, 0x16, 0x17, 0x18, 0x19, 0x1A, 0x1B, 0x1C],
      .push28 0x0102030405060708090A0B0C0D0E0F101112131415161718191A1B1C),
   ([0x7C, 0x01, 0x02, 0x03, 0x04, 0x05, 0x06, 0x07, 0x08, 0x09, 0x0A, 0x0B, 0x0C, 0x0D, 0x0E,
      0x0F, 0x10, 0x11, 0x12, 0x13, 0x14, 0x15, 0x16, 0x17, 0x18, 0x19, 0x1A, 0x1B, 0x1C, 0x1D],
      .push29 0x0102030405060708090A0B0C0D0E0F101112131415161718191A1B1C1D),
   ([0x7D, 0x01, 0x02, 0x03, 0x04, 0x05, 0x06, 0x07, 0x08, 0x09, 0x0A, 0x0B, 0x0C, 0x0D, 0x0E,
      0x0F, 0x10, 0x11, 0x12, 0x13, 0x14, 0x15, 0x16, 0x17, 0x18, 0x19, 0x1A, 0x1B, 0x1C, 0x1D, 0x1E],
      .push30 0x0102030405060708090A0B0C0D0E0F101112131415161718191A1B1C1D1E),
   ([0x7E, 0x01, 0x02, 0x03, 0x04, 0x05, 0x06, 0x07, 0x08, 0x09, 0x0A, 0x0B, 0x0C, 0x0D, 0x0E,
      0x0F, 0x10, 0x11, 0x12, 0x13, 0x14, 0x15, 0x16, 0x17, 0x18, 0x19, 0x1A, 0x1B, 0x1C, 0x1D, 0x1E, 0x1F],
      .push31 0x0102030405060708090A0B0C0D0E0F101112131415161718191A1B1C1D1E1F),
   ([0x7F, 0x01, 0x02, 0x03, 0x04, 0x05, 0x06, 0x07, 0x08, 0x09, 0x0A, 0x0B, 0x0C, 0x0D, 0x0E,
      0x0F, 0x10, 0x11, 0x12, 0x13, 0x14, 0x15, 0x16, 0x17, 0x18, 0x19, 0x1A, 0x1B, 0x1C, 0x1D, 0x1E, 0x1F, 0x20],
      .push32 0x0102030405060708090A0B0C0D0E0F101112131415161718191A1B1C1D1E1F20)] : List (List
      Byte × Instr)),
    decode p.1 = .instr p.2 ∧ encode p.2 = p.1 := by decide +kernel

theorem test_decode_dup : ∀ p ∈ ([
   ([0x80], .dup1), ([0x81], .dup2), ([0x82], .dup3), ([0x83], .dup4), ([0x84], .dup5),
   ([0x85], .dup6), ([0x86], .dup7), ([0x87], .dup8), ([0x88], .dup9), ([0x89], .dup10),
   ([0x8A], .dup11), ([0x8B], .dup12), ([0x8C], .dup13), ([0x8D], .dup14), ([0x8E], .dup15),
   ([0x8F], .dup16)] : List (List Byte × Instr)),
    decode p.1 = .instr p.2 ∧ encode p.2 = p.1 := by decide +kernel

theorem test_decode_swap : ∀ p ∈ ([
   ([0x90], .swap1), ([0x91], .swap2), ([0x92], .swap3), ([0x93], .swap4), ([0x94], .swap5),
   ([0x95], .swap6), ([0x96], .swap7), ([0x97], .swap8), ([0x98], .swap9), ([0x99], .swap10),
   ([0x9A], .swap11), ([0x9B], .swap12), ([0x9C], .swap13), ([0x9D], .swap14), ([0x9E], .swap15),
   ([0x9F], .swap16)] : List (List Byte × Instr)),
    decode p.1 = .instr p.2 ∧ encode p.2 = p.1 := by decide +kernel

/-- The ends of the ranges of R107 are unassigned. -/
theorem test_decode_unassigned : ∀ r ∈ unassignedRanges, ∀ b ∈ [r.1, r.2],
    decode [BitVec.ofNat 8 b, 0x01] = .unassigned (BitVec.ofNat 8 b) := by decide +kernel

/-- The ends of the ranges of R108 are refused. -/
theorem test_decode_refused : ∀ r ∈ refusedRanges, ∀ b ∈ [r.1, r.2],
    decode [BitVec.ofNat 8 b, 0x01] = .refused (BitVec.ofNat 8 b) := by decide +kernel

/-- Immediate bytes past the end of code are 0 (R104), and no byte is the end of code (R151). -/
theorem test_decode_truncated :
    decode [0x61, 0xAB] = .instr (.push2 0xAB00) ∧ decode [0x7F] = .instr (.push32 0) ∧
    decode [] = .endOfCode := by decide +kernel

/-- Bit 0 of a table word is the least significant bit of the opcode byte. -/
theorem test_table_word :
    decodeTableWord 24 0x020161 = some (.push2 0x0102) ∧ decodeTableWord 8 0x61 = some (.push2 0) ∧
    decodeTableWord 8 0xFD = some .revert ∧ decodeTableWord 8 0x0C = none ∧
    decodeTableWord 8 0xF1 = none := by decide +kernel

/-! ### Single steps -/

/-- `2^256 - 1`. -/
abbrev MAXW : Word := BitVec.allOnes 256

/-- Running at `pc` of a code, with the default parameters. -/
def running (code : List Byte) (pc : Nat) (stack : List Word) (gas : Nat) : State :=
  { State.reset with
    code := code
    jd := buildJD code
    pc := BitVec.ofNat 32 pc
    stack := stack
    gas := BitVec.ofNat 64 gas }

/-- Running at a code of one byte. -/
def at0 (op : Byte) (stack : List Word) (gas : Nat) : State := running [op] 0 stack gas

/-- The default parameters but for SSTORE_KEY_FROM. -/
def topParams : Params := { defaultParams with sstoreKeyFrom := .top }

/-- What the vectors show of an end state. -/
structure Seen where
  status : BitVec 8
  pc : BitVec 32
  gas : BitVec 64
  stack : List Word
  msize : Nat
  deriving DecidableEq, Repr

/-- What the vectors show of an answer. -/
def seen : Result → Option Seen
  | .next s => some ⟨s.status, s.pc, s.gas, s.stack, s.msize⟩
  | .fault _ | .refused _ => none

/-- The state of an answer. -/
def stateOf : Result → State
  | .next s => s
  | .fault _ | .refused _ => State.reset

/-- Whether an answer is a next state. -/
def isNext : Result → Bool
  | .next _ => true
  | .fault _ | .refused _ => false

theorem next_stateOf {r : Result} (h : isNext r = true) : r = .next (stateOf r) := by
  cases r with
  | next s => rfl
  | fault | refused => simp [isNext] at h

/-- The storage-port transactions of an answer. -/
abbrev portOf (r : Result) : List PortTransaction := (stateOf r).portLog

/-- The return data of an answer. -/
abbrev dataOf (r : Result) : List Byte := (stateOf r).rdata

/-- The memory of an answer. -/
abbrev memOf (r : Result) : Memory := (stateOf r).mem

/-- V2 of spec/95_test_vectors.md. -/
theorem test_add_1 :
    seen (step (at0 0x01 [MAXW, 1] 1000)) = some ⟨0, 1, 997, [0], 0⟩ := by
  decide +kernel

/-- V4 of spec/95_test_vectors.md. -/
theorem test_add_2 :
    seen (step (at0 0x01 [1] 1000)) = some ⟨11, 0, 997, [1], 0⟩ := by
  decide +kernel

/-- V7 of spec/95_test_vectors.md. -/
theorem test_mul_1 :
    seen (step (at0 0x02 [2 ^ 255, 2] 1000)) = some ⟨0, 1, 995, [0], 0⟩ := by
  decide +kernel

/-- V8 of spec/95_test_vectors.md. -/
theorem test_mul_2 :
    seen (step (at0 0x02 [MAXW, MAXW] 1000)) = some ⟨0, 1, 995, [1], 0⟩ := by
  decide +kernel

/-- V10 of spec/95_test_vectors.md. -/
theorem test_sub_1 :
    seen (step (at0 0x03 [5, 3] 1000)) = some ⟨0, 1, 997, [2], 0⟩ := by
  decide +kernel

/-- V11 of spec/95_test_vectors.md. -/
theorem test_sub_2 :
    seen (step (at0 0x03 [3, 5] 1000)) = some ⟨0, 1, 997, [-2], 0⟩ := by
  decide +kernel

/-- V14 of spec/95_test_vectors.md. -/
theorem test_div_1 :
    seen (step (at0 0x04 [1, 0] 1000)) = some ⟨0, 1, 995, [0], 0⟩ := by
  decide +kernel

/-- V17 of spec/95_test_vectors.md. -/
theorem test_div_2 :
    seen (step (at0 0x04 [-2, 2] 1000)) = some ⟨0, 1, 995, [2 ^ 255 - 1], 0⟩ := by
  decide +kernel

/-- V18 of spec/95_test_vectors.md. -/
theorem test_sdiv_1 :
    seen (step (at0 0x05 [-7, 2] 1000)) = some ⟨0, 1, 995, [-3], 0⟩ := by
  decide +kernel

/-- V21 of spec/95_test_vectors.md. -/
theorem test_sdiv_2 :
    seen (step (at0 0x05 [2 ^ 255, MAXW] 1000)) = some ⟨0, 1, 995, [2 ^ 255], 0⟩ := by
  decide +kernel

/-- V25 of spec/95_test_vectors.md. -/
theorem test_mod_1 :
    seen (step (at0 0x06 [5, 0] 1000)) = some ⟨0, 1, 995, [0], 0⟩ := by
  decide +kernel

/-- V26 of spec/95_test_vectors.md. -/
theorem test_mod_2 :
    seen (step (at0 0x06 [MAXW, 16] 1000)) = some ⟨0, 1, 995, [15], 0⟩ := by
  decide +kernel

/-- V27 of spec/95_test_vectors.md. -/
theorem test_smod_1 :
    seen (step (at0 0x07 [-7, 3] 1000)) = some ⟨0, 1, 995, [MAXW], 0⟩ := by
  decide +kernel

/-- V28 of spec/95_test_vectors.md. -/
theorem test_smod_2 :
    seen (step (at0 0x07 [7, -3] 1000)) = some ⟨0, 1, 995, [1], 0⟩ := by
  decide +kernel

/-- V33 of spec/95_test_vectors.md. -/
theorem test_addmod_1 :
    seen (step (at0 0x08 [MAXW, 2, MAXW] 1000)) = some ⟨0, 1, 992, [2], 0⟩ := by
  decide +kernel

/-- V34 of spec/95_test_vectors.md. -/
theorem test_addmod_2 :
    seen (step (at0 0x08 [1, 2, 0] 1000)) = some ⟨0, 1, 992, [0], 0⟩ := by
  decide +kernel

/-- V37 of spec/95_test_vectors.md. -/
theorem test_mulmod_1 :
    seen (step (at0 0x09 [MAXW, MAXW, 12] 1000)) = some ⟨0, 1, 992, [9], 0⟩ := by
  decide +kernel

/-- V38 of spec/95_test_vectors.md. -/
theorem test_mulmod_2 :
    seen (step (at0 0x09 [5, 5, 0] 1000)) = some ⟨0, 1, 992, [0], 0⟩ := by
  decide +kernel

/-- V42 of spec/95_test_vectors.md. -/
theorem test_exp_1 :
    seen (step (at0 0x0A [2, 0x100] 1000)) = some ⟨0, 1, 890, [0], 0⟩ := by
  decide +kernel

/-- V44 of spec/95_test_vectors.md. -/
theorem test_exp_2 :
    seen (step (at0 0x0A [2, 0x100] 50)) = some ⟨7, 0, 40, [2, 0x100], 0⟩ := by
  decide +kernel

/-- V47 of spec/95_test_vectors.md. -/
theorem test_signextend_1 :
    seen (step (at0 0x0B [0, 0x17f] 1000)) = some ⟨0, 1, 995, [127], 0⟩ := by
  decide +kernel

/-- V48 of spec/95_test_vectors.md. -/
theorem test_signextend_2 :
    seen (step (at0 0x0B [1, 0x8000] 1000)) = some ⟨0, 1, 995, [-32768], 0⟩ := by
  decide +kernel

/-- V54 of spec/95_test_vectors.md. -/
theorem test_lt_1 :
    seen (step (at0 0x10 [1, 1] 1000)) = some ⟨0, 1, 997, [0], 0⟩ := by
  decide +kernel

/-- V55 of spec/95_test_vectors.md. -/
theorem test_lt_2 :
    seen (step (at0 0x10 [1, MAXW] 1000)) = some ⟨0, 1, 997, [1], 0⟩ := by
  decide +kernel

/-- V56 of spec/95_test_vectors.md. -/
theorem test_gt_1 :
    seen (step (at0 0x11 [2, 1] 1000)) = some ⟨0, 1, 997, [1], 0⟩ := by
  decide +kernel

/-- V57 of spec/95_test_vectors.md. -/
theorem test_gt_2 :
    seen (step (at0 0x11 [1, 2] 1000)) = some ⟨0, 1, 997, [0], 0⟩ := by
  decide +kernel

/-- V59 of spec/95_test_vectors.md. -/
theorem test_slt_1 :
    seen (step (at0 0x12 [MAXW, 0] 1000)) = some ⟨0, 1, 997, [1], 0⟩ := by
  decide +kernel

/-- V61 of spec/95_test_vectors.md. -/
theorem test_slt_2 :
    seen (step (at0 0x12 [2 ^ 255, 2 ^ 255 - 1] 1000)) = some ⟨0, 1, 997, [1], 0⟩ := by
  decide +kernel

/-- V62 of spec/95_test_vectors.md. -/
theorem test_sgt_1 :
    seen (step (at0 0x13 [0, MAXW] 1000)) = some ⟨0, 1, 997, [1], 0⟩ := by
  decide +kernel

/-- V64 of spec/95_test_vectors.md. -/
theorem test_sgt_2 :
    seen (step (at0 0x13 [1, 1] 1000)) = some ⟨0, 1, 997, [0], 0⟩ := by
  decide +kernel

/-- V65 of spec/95_test_vectors.md. -/
theorem test_eq_1 :
    seen (step (at0 0x14 [5, 5] 1000)) = some ⟨0, 1, 997, [1], 0⟩ := by
  decide +kernel

/-- V66 of spec/95_test_vectors.md. -/
theorem test_eq_2 :
    seen (step (at0 0x14 [5, 6] 1000)) = some ⟨0, 1, 997, [0], 0⟩ := by
  decide +kernel

/-- V68 of spec/95_test_vectors.md. -/
theorem test_iszero_1 :
    seen (step (at0 0x15 [2 ^ 255] 1000)) = some ⟨0, 1, 997, [0], 0⟩ := by
  decide +kernel

/-- V69 of spec/95_test_vectors.md. -/
theorem test_iszero_2 :
    seen (step (at0 0x15 [] 1000)) = some ⟨11, 0, 997, [], 0⟩ := by
  decide +kernel

/-- V70 of spec/95_test_vectors.md. -/
theorem test_and_1 :
    seen (step (at0 0x16 [240, 60] 1000)) = some ⟨0, 1, 997, [48], 0⟩ := by
  decide +kernel

/-- V71 of spec/95_test_vectors.md. -/
theorem test_or_1 :
    seen (step (at0 0x17 [240, 60] 1000)) = some ⟨0, 1, 997, [252], 0⟩ := by
  decide +kernel

/-- V72 of spec/95_test_vectors.md. -/
theorem test_xor_1 :
    seen (step (at0 0x18 [240, 60] 1000)) = some ⟨0, 1, 997, [204], 0⟩ := by
  decide +kernel

/-- V74 of spec/95_test_vectors.md. -/
theorem test_not_1 :
    seen (step (at0 0x19 [0] 1000)) = some ⟨0, 1, 997, [MAXW], 0⟩ := by
  decide +kernel

/-- V77 of spec/95_test_vectors.md. -/
theorem test_byte_1 :
    seen (step (at0 0x1A [30, 0x1234] 1000)) = some ⟨0, 1, 997, [18], 0⟩ := by
  decide +kernel

/-- V79 of spec/95_test_vectors.md. -/
theorem test_byte_2 :
    seen (step (at0 0x1A [32, MAXW] 1000)) = some ⟨0, 1, 997, [0], 0⟩ := by
  decide +kernel

/-- V82 of spec/95_test_vectors.md. -/
theorem test_shl_1 :
    seen (step (at0 0x1B [255, 1] 1000)) = some ⟨0, 1, 997, [2 ^ 255], 0⟩ := by
  decide +kernel

/-- V83 of spec/95_test_vectors.md. -/
theorem test_shl_2 :
    seen (step (at0 0x1B [0x100, 1] 1000)) = some ⟨0, 1, 997, [0], 0⟩ := by
  decide +kernel

/-- V87 of spec/95_test_vectors.md. -/
theorem test_shr_1 :
    seen (step (at0 0x1C [255, 2 ^ 255] 1000)) = some ⟨0, 1, 997, [1], 0⟩ := by
  decide +kernel

/-- V88 of spec/95_test_vectors.md. -/
theorem test_shr_2 :
    seen (step (at0 0x1C [0x100, MAXW] 1000)) = some ⟨0, 1, 997, [0], 0⟩ := by
  decide +kernel

/-- V92 of spec/95_test_vectors.md. -/
theorem test_sar_1 :
    seen (step (at0 0x1D [0x100, -2] 1000)) = some ⟨0, 1, 997, [MAXW], 0⟩ := by
  decide +kernel

/-- V95 of spec/95_test_vectors.md. -/
theorem test_sar_2 :
    seen (step (at0 0x1D [1, 2 ^ 255] 1000)) = some ⟨0, 1, 997, [2 ^ 255 + 2 ^ 254], 0⟩ := by
  decide +kernel

/-- V98 of spec/95_test_vectors.md. -/
theorem test_pop_1 :
    seen (step (at0 0x50 [] 1000)) = some ⟨11, 0, 998, [], 0⟩ := by
  decide +kernel

/-- V99 of spec/95_test_vectors.md. -/
theorem test_pop_2 :
    seen (step (at0 0x50 [1, 2] 1000)) = some ⟨0, 1, 998, [2], 0⟩ := by
  decide +kernel

/-- V100 to V131: PUSHn of the bytes 01 02 … . -/
theorem test_push : ∀ n ∈ List.range' 1 32,
    seen (step (running (BitVec.ofNat 8 (0x5F + n) :: (List.range' 1 n).map (BitVec.ofNat 8 ·)) 0 [] 1000)) =
      some ⟨0, BitVec.ofNat 32 (1 + n), 997,
        [0x0102030405060708090A0B0C0D0E0F101112131415161718191A1B1C1D1E1F20 >>> (8 * (32 - n))], 0⟩ := by
  decide +kernel

/-- V132 and V134: a truncated immediate, and a full stack. -/
theorem test_push_edges :
    seen (step (running [0x61, 0xAB] 0 [] 1000)) = some ⟨0, 2, 997, [0xAB00], 0⟩ ∧
    seen (step (running [0x60, 0x05] 0 (List.replicate 1024 0) 1000)) =
      some ⟨13, 0, 997, List.replicate 1024 0, 0⟩ := by
  decide +kernel

/-- V135 to V150. -/
theorem test_dup : ∀ k ∈ List.range' 1 16,
    seen (step (at0 (BitVec.ofNat 8 (0x7F + k)) [1, 2, 3, 4, 5, 6, 7, 8, 9, 10, 11, 12, 13, 14, 15, 16] 1000)) =
      some ⟨0, 1, 997, BitVec.ofNat 256 k :: [1, 2, 3, 4, 5, 6, 7, 8, 9, 10, 11, 12, 13, 14, 15, 16], 0⟩ := by
  decide +kernel

/-- V151: DUP16 on 15 words. -/
theorem test_dup_underflow :
    seen (step (at0 0x8F (List.replicate 15 1) 1000)) = some ⟨11, 0, 997, List.replicate 15 1, 0⟩ := by
  decide +kernel

/-- V153 to V168. -/
theorem test_swap : ∀ k ∈ List.range' 1 16,
    seen (step (at0 (BitVec.ofNat 8 (0x8F + k)) ((List.range 17).map (BitVec.ofNat 256 ·)) 1000)) =
      some ⟨0, 1, 997, (((List.range 17).map (BitVec.ofNat 256 ·)).set 0 (BitVec.ofNat 256 k)).set k 0, 0⟩ := by
  decide +kernel

/-- V169: SWAP16 on 16 words. -/
theorem test_swap_underflow :
    seen (step (at0 0x9F (List.replicate 16 1) 1000)) = some ⟨11, 0, 997, List.replicate 16 1, 0⟩ := by
  decide +kernel

/-- V172 of spec/95_test_vectors.md. -/
theorem test_mload_1 :
    seen (step (at0 0x51 [1] 1000)) = some ⟨0, 1, 991, [0], 64⟩ := by
  decide +kernel

/-- V174 of spec/95_test_vectors.md. -/
theorem test_mload_2 :
    seen (step { at0 0x51 [16] 1000 with mem := [(31, 0x2A)], msize := 64 }) = some ⟨0, 1, 997, [0x2a00000000000000000000000000000000], 64⟩ := by
  decide +kernel

/-- V178 of spec/95_test_vectors.md. -/
theorem test_mstore_1 :
    seen (step (at0 0x52 [0, 42] 1000)) = some ⟨0, 1, 994, [], 32⟩ ∧
    memOf (step (at0 0x52 [0, 42] 1000)) = [(31, 0x2A)] := by
  decide +kernel

/-- V180 of spec/95_test_vectors.md. -/
theorem test_mstore_2 :
    seen (step (at0 0x52 [0xffffffe1, 1] 1000)) = some ⟨17, 0, 997, [0xffffffe1, 1], 0⟩ := by
  decide +kernel

/-- V181 of spec/95_test_vectors.md. -/
theorem test_mstore8_1 :
    seen (step (at0 0x53 [31, 0x1ff] 1000)) = some ⟨0, 1, 994, [], 32⟩ ∧
    memOf (step (at0 0x53 [31, 0x1ff] 1000)) = [(31, 0xFF)] := by
  decide +kernel

/-- V182 of spec/95_test_vectors.md. -/
theorem test_mstore8_2 :
    seen (step (at0 0x53 [0x3ff, 1] 1000)) = some ⟨0, 1, 899, [], 1024⟩ := by
  decide +kernel

/-- V185 of spec/95_test_vectors.md. -/
theorem test_msize_1 :
    seen (step { at0 0x59 [] 1000 with msize := 64 }) = some ⟨0, 1, 998, [64], 64⟩ := by
  decide +kernel

/-- V186 of spec/95_test_vectors.md. -/
theorem test_gas_1 :
    seen (step (at0 0x5A [] 100)) = some ⟨0, 1, 98, [98], 0⟩ := by
  decide +kernel

/-- V188 of spec/95_test_vectors.md. -/
theorem test_gas_2 :
    seen (step (at0 0x5A [] 1)) = some ⟨7, 0, 1, [], 0⟩ := by
  decide +kernel

/-- V189 of spec/95_test_vectors.md. -/
theorem test_sload_1 :
    seen (step { at0 0x54 [1] 3000 with portCosts := [2100], portValues := [2] }) = some ⟨0, 1, 900, [2], 0⟩ ∧
    portOf (step { at0 0x54 [1] 3000 with portCosts := [2100], portValues := [2] }) = [.read 1 2] := by
  decide +kernel

/-- V190 of spec/95_test_vectors.md. -/
theorem test_sload_2 :
    seen (step { at0 0x54 [1] 2099 with portCosts := [2100], portValues := [2] }) = some ⟨7, 0, 2099, [1], 0⟩ := by
  decide +kernel

/-- V191 of spec/95_test_vectors.md. -/
theorem test_sstore_1 :
    seen (step { at0 0x55 [2, 1] 30000 with portCosts := [22100] }) = some ⟨0, 1, 7900, [], 0⟩ ∧
    portOf (step { at0 0x55 [2, 1] 30000 with portCosts := [22100] }) = [.write 1 2] := by
  decide +kernel

/-- V192 of spec/95_test_vectors.md. -/
theorem test_sstore_2 :
    seen (step { at0 0x55 [2, 1] 30000 with portCosts := [22100], params := topParams }) = some ⟨0, 1, 7900, [], 0⟩ ∧
    portOf (step { at0 0x55 [2, 1] 30000 with portCosts := [22100], params := topParams }) = [.write 2 1] := by
  decide +kernel

/-- V195: the JUMP of `60 04 56 00 5B 00`. -/
theorem test_jump_1 :
    seen (step (running [0x60, 0x04, 0x56, 0x00, 0x5B, 0x00] 2 [4] 997)) = some ⟨0, 4, 989, [], 0⟩ := by
  decide +kernel

/-- P3: the JUMP of `60 5B 60 01 56 5B 00` into an immediate. -/
theorem test_jump_2 :
    seen (step (running [0x60, 0x5B, 0x60, 0x01, 0x56, 0x5B, 0x00] 4 [1, 91] 94)) =
      some ⟨15, 4, 86, [1, 91], 0⟩ := by
  decide +kernel

/-- S3: the JUMPI of `61 5B 00 60 01 60 01 57`. -/
theorem test_jumpi_1 :
    seen (step (running [0x61, 0x5B, 0x00, 0x60, 0x01, 0x60, 0x01, 0x57] 7 [1, 1, 0x5B00] 91)) =
      some ⟨15, 7, 81, [1, 1, 0x5B00], 0⟩ := by
  decide +kernel

/-- P1: the JUMPI of the countdown loop, taken and not taken. -/
theorem test_jumpi_2 :
    seen (step (running [0x60, 0x03, 0x5B, 0x60, 0x01, 0x90, 0x03, 0x80, 0x60, 0x02, 0x57, 0x00] 10
      [2, 2, 2] 981)) = some ⟨0, 2, 971, [2], 0⟩ ∧
    seen (step (running [0x60, 0x03, 0x5B, 0x60, 0x01, 0x90, 0x03, 0x80, 0x60, 0x02, 0x57, 0x00] 10
      [2, 0, 0] 929)) = some ⟨0, 11, 919, [0], 0⟩ := by
  decide +kernel

/-- The PC of V209. -/
theorem test_pc_at_2 :
    seen (step (running [0x60, 0x00, 0x58] 2 [0] 997)) = some ⟨0, 3, 995, [2, 0], 0⟩ := by
  decide +kernel

/-- V208 of spec/95_test_vectors.md. -/
theorem test_jumpdest_1 :
    seen (step (at0 0x5B [] 0)) = some ⟨7, 0, 0, [], 0⟩ := by
  decide +kernel

/-- V210 of spec/95_test_vectors.md. -/
theorem test_pc_1 :
    seen (step (at0 0x58 [] 1)) = some ⟨7, 0, 1, [], 0⟩ := by
  decide +kernel

/-- V212 of spec/95_test_vectors.md. -/
theorem test_stop_1 :
    seen (step (at0 0x00 [1, 2] 7)) = some ⟨1, 0, 7, [1, 2], 0⟩ := by
  decide +kernel

/-- V213 of spec/95_test_vectors.md. -/
theorem test_ret_1 :
    seen (step { at0 0xF3 [0, 32] 1000 with mem := [(31, 0x2A)], msize := 32 }) = some ⟨3, 0, 1000, [], 32⟩ ∧
    dataOf (step { at0 0xF3 [0, 32] 1000 with mem := [(31, 0x2A)], msize := 32 }) = List.replicate 31 0 ++ [0x2A] := by
  decide +kernel

/-- V215 of spec/95_test_vectors.md. -/
theorem test_ret_2 :
    seen (step (at0 0xF3 [MAXW, 0] 1000)) = some ⟨3, 0, 1000, [], 0⟩ := by
  decide +kernel

/-- V220 of spec/95_test_vectors.md. -/
theorem test_revert_1 :
    seen (step { at0 0xFD [0, 32] 1000 with mem := [(31, 0x2A)], msize := 32 }) = some ⟨5, 0, 1000, [], 32⟩ ∧
    dataOf (step { at0 0xFD [0, 32] 1000 with mem := [(31, 0x2A)], msize := 32 }) = List.replicate 31 0 ++ [0x2A] := by
  decide +kernel

/-- V221 of spec/95_test_vectors.md. -/
theorem test_revert_2 :
    seen (step (at0 0xFD [0, 32] 2)) = some ⟨7, 0, 2, [0, 32], 0⟩ := by
  decide +kernel

/-- V222 of spec/95_test_vectors.md. -/
theorem test_invalid_1 :
    seen (step (at0 0xFE [] 5)) = some ⟨9, 0, 5, [], 0⟩ := by
  decide +kernel

/-- V223 and V230: unassigned bytes. -/
theorem test_unassigned :
    seen (step (at0 0x0C [] 5)) = some ⟨9, 0, 5, [], 0⟩ ∧
    seen (step (at0 0xFC [] 5)) = some ⟨9, 0, 5, [], 0⟩ := by
  decide +kernel

/-- V231: a refused byte. -/
theorem test_refused : step (at0 0x20 [1] 5) = .refused (.refusedByte 0x20) := by rfl

/-- V238: empty code. -/
theorem test_empty_code : seen (step (running [] 0 [] 10)) = some ⟨1, 0, 10, [], 0⟩ := by
  decide +kernel

/-- A word placed by `withFetchWord` is the next instruction. -/
theorem test_fetch_word :
    (stateOf (step (State.reset.withFetchWord 24 0x020161))).stack = [0x0102] := by decide +kernel

/-! ### Witnesses: states that meet the hypotheses of the obligations

Every base cost is 5 here, so that a state below the base cost exists for every instruction. -/

/-- The default parameters but for a base cost of 5 for every byte. -/
def fives : Params := { defaultParams with gasSchedule := List.replicate 256 5 }

/-- A running state with a code of one JUMPDEST, gas `gas` and a stack of `n` words, all 7. -/
def words (n gas : Nat) : State :=
  { at0 0x5B (List.replicate n 7) gas with params := fives }

/-- DescriptorRule and ChecksInOrder, for every instruction: gas 1 below the base cost; the base
cost exactly, and an empty stack where one word or more is asked; the base cost exactly, and the
least depth that overflows. -/
theorem witness_checks : ∀ r ∈ opRows,
    let i := r.make 0
    let op := opcode i
    (words 2 4).gas.toNat < (words 2 4).baseGas op ∧
    ((stackColumns i).1 ≠ 0 →
      (words ((stackColumns i).1 - 1) 5).baseGas op ≤ (words ((stackColumns i).1 - 1) 5).gas.toNat ∧
      (words ((stackColumns i).1 - 1) 5).depth < (stackColumns i).1) ∧
    let s := words (1025 - (stackColumns i).2).toNat 5
    s.baseGas op ≤ s.gas.toNat ∧ (stackColumns i).1 ≤ s.depth ∧
      (1024 : Int) < s.depth + (stackColumns i).2 := by decide +kernel

/-- The rules over the top of the stack (AddMulSub, DivMod, SdivSmod, AddmodMulmod,
SignextendResult, CompareResult, EqIszero, BitwiseResult, ByteResult, ShlShr, SarResult,
PopDropsTop): depth 1024 and the base cost exactly, for every opcode byte. -/
theorem witness_operands :
    (words 1024 5).stack = 7 :: List.replicate 1023 7 ∧
    (words 1024 5).stack = 7 :: 7 :: List.replicate 1022 7 ∧
    (words 1024 5).stack = 7 :: 7 :: 7 :: List.replicate 1021 7 ∧
    (words 1024 5).depth ≤ 1024 ∧
    ∀ b < 256, (words 1024 5).baseGas (BitVec.ofNat 8 b) ≤ (words 1024 5).gas.toNat := by
  decide +kernel

/-- The rules of instructions that push (PushCompletes, DupCopies, GasPushesCounter, MsizePushes,
JumpdestPc), and of those that ask nothing of the stack (StopHalts, InvalidFaults): depth 1023 and
the base cost exactly. -/
theorem witness_room :
    (words 1023 5).depth < 1024 ∧ (words 1023 5).msize < 2 ^ 256 ∧
    (∀ p ∈ dupInstrs, (words 1023 5).stack[p.2 - 1]? = some 7) ∧
    ∀ b < 256, (words 1023 5).baseGas (BitVec.ofNat 8 b) ≤ (words 1023 5).gas.toNat := by
  decide +kernel

/-- ExpResult: `bytelen(b)` is 0 for 0, 1 for 255, 2 for 256 and 32 for `2^256 - 1`, each with gas 1
below the whole cost and with the whole cost exactly. -/
theorem witness_ExpResult :
    ∀ p ∈ ([(0, 0), (255, 1), (256, 2), (BitVec.allOnes 256, 32)] : List (Word × Nat)),
      (p.1.toNat < 256 ^ p.2 ∧ ∀ m < p.2, 256 ^ m ≤ p.1.toNat) ∧
      let s (gas : Nat) : State := { words 0 gas with stack := [3, p.1] }
      (s (5 + 50 * p.2)).stack = 3 :: p.1 :: [] ∧ (s (5 + 50 * p.2)).depth ≤ 1024 ∧
      (s 5).baseGas 0x0A ≤ (s 5).gas.toNat ∧
      (p.2 ≠ 0 → (s (4 + 50 * p.2)).gas.toNat < (s 5).baseGas 0x0A + (s 5).params.expByteCost * p.2) ∧
      (s 5).baseGas 0x0A + (s 5).params.expByteCost * p.2 ≤ (s (5 + 50 * p.2)).gas.toNat := by
  decide +kernel

/-- PushFromCode, for every `n` and a code that ends after the opcode byte: gas 1 below the base
cost; a full stack; a stack with one place left. -/
theorem witness_PushFromCode : ∀ n ∈ List.range' 1 32,
    let op := BitVec.ofNat 8 (0x5F + n)
    let s (depth gas : Nat) : State := { words depth gas with code := [op], jd := [] }
    (s 0 4).halted = false ∧ (s 0 4).code[(s 0 4).pc.toNat]? = some op ∧
    (s 0 4).gas.toNat < (s 0 4).baseGas op ∧
    ((s 1024 5).baseGas op ≤ (s 1024 5).gas.toNat ∧ 1024 ≤ (s 1024 5).depth) ∧
    ((s 1023 5).baseGas op ≤ (s 1023 5).gas.toNat ∧ (s 1023 5).depth < 1024) := by
  decide +kernel

/-- SwapExchanges: the words around `S[k]`, in a stack of 1024. -/
theorem witness_SwapExchanges : ∀ p ∈ swapInstrs,
    (words 1024 5).stack = 7 :: (List.replicate (p.2 - 1) 7 ++ 7 :: List.replicate (1023 - p.2) 7) ∧
    (List.replicate (p.2 - 1) (7 : Word)).length = p.2 - 1 ∧ (words 1024 5).depth ≤ 1024 ∧
    (words 1024 5).baseGas (BitVec.ofNat 8 (0x8F + p.2)) ≤ (words 1024 5).gas.toNat := by
  decide +kernel

/-- A state with one word of memory, 42, a code `JUMPDEST; PUSH1 0x5B; JUMPDEST`, and scripted port
answers. -/
def inMemory (stack : List Word) (gas : Nat) : State :=
  { running [0x5B, 0x60, 0x5B, 0x5B] 0 stack gas with
    params := fives
    mem := [(31, 0x2A)]
    msize := 32
    portCosts := [7]
    portValues := [9] }

theorem inMemory_inv (stack : List Word) (gas : Nat) (h : stack.length ≤ 1024) :
    (inMemory stack gas).Inv where
  params := show ParamsOk fives by decide +kernel
  codeLen := show 4 ≤ fives.codeMax by decide +kernel
  jd := rfl
  pc := show 0 ≤ 4 by decide
  depth := h
  memForm := show Memory.wf [(31, 0x2A)] by decide +kernel
  memLow := show ∀ c ∈ ([(31, 0x2A)] : Memory), c.1 < 32 by decide +kernel
  msizeGrain := show 32 % 32 = 0 by decide
  msizeMax := show 32 ≤ fives.memMax by decide +kernel
  status := Or.inl rfl
  rdata := fun h => absurd rfl h
  portCosts := show PortOk [7] by decide

theorem inMemory_jd (stack : List Word) (gas : Nat) : (inMemory stack gas).jd = [0, 3] :=
  show buildJD [0x5B, 0x60, 0x5B, 0x5B] = [0, 3] by decide +kernel

/-- The hypotheses of an access to `size` bytes at `off` by the opcode `op`, in a state with gas. -/
abbrev AccessFits (op : Byte) (off size gas : Nat) : Prop :=
  ¬ (inMemory [] gas).overCeiling off size ∧
  (inMemory [] gas).baseGas op + (inMemory [] gas).accessCost off size ≤ (inMemory [] gas).gas.toNat

/-- As `AccessFits`, with gas for the base cost and not for the expansion. -/
abbrev AccessStarved (op : Byte) (off size gas : Nat) : Prop :=
  (inMemory [] gas).baseGas op ≤ (inMemory [] gas).gas.toNat ∧
  ¬ (inMemory [] gas).overCeiling off size ∧
  (inMemory [] gas).gas.toNat < (inMemory [] gas).baseGas op + (inMemory [] gas).accessCost off size

/-- As `AccessFits`, for an access past the ceiling. -/
abbrev AccessTooHigh (op : Byte) (off size gas : Nat) : Prop :=
  (inMemory [] gas).baseGas op ≤ (inMemory [] gas).gas.toNat ∧ (inMemory [] gas).overCeiling off size

/-- The cost of growing memory from one word to `2^27` words: `3 * 2^27 + 2^45 - 3`. -/
abbrev growAll : Nat := 3 * 2 ^ 27 + 2 ^ 45 - 3

/-- MloadReads, MstoreWrites (32 bytes), Mstore8Writes (1 byte), ReturnHalts and RevertHalts (any
size): accesses with their cost exactly, up to the last one below the ceiling of `2^32`, and the
empty one. Each row is an opcode, an offset, a size and the gas. -/
theorem witness_access_completes :
    ∀ p ∈ ([(0x51, 0, 32, 5), (0x52, 0, 32, 5), (0xF3, 0, 32, 5), (0xFD, 0, 32, 5), (0x53, 31, 1, 5),
      (0x51, 2 ^ 32 - 32, 32, 5 + growAll), (0x52, 2 ^ 32 - 32, 32, 5 + growAll),
      (0xF3, 2 ^ 32 - 32, 32, 5 + growAll), (0xFD, 2 ^ 32 - 32, 32, 5 + growAll),
      (0x53, 2 ^ 32 - 1, 1, 5 + growAll), (0xF3, 2 ^ 256 - 1, 0, 5), (0xFD, 2 ^ 256 - 1, 0, 5)]
      : List (Byte × Nat × Nat × Nat)), AccessFits p.1 p.2.1 p.2.2.1 p.2.2.2 := by
  decide +kernel

/-- The same, with gas 1 short of the whole cost, and with the base cost only. -/
theorem witness_access_starved :
    ∀ p ∈ ([(0x51, 1, 32, 5), (0x52, 1, 32, 5), (0xF3, 1, 32, 5), (0xFD, 1, 32, 5), (0x53, 32, 1, 5),
      (0x51, 2 ^ 32 - 32, 32, 4 + growAll), (0x52, 2 ^ 32 - 32, 32, 4 + growAll),
      (0xF3, 2 ^ 32 - 32, 32, 4 + growAll), (0xFD, 2 ^ 32 - 32, 32, 4 + growAll),
      (0x53, 2 ^ 32 - 1, 1, 4 + growAll)]
      : List (Byte × Nat × Nat × Nat)), AccessStarved p.1 p.2.1 p.2.2.1 p.2.2.2 := by
  decide +kernel

/-- The same, past the ceiling: by one byte, and by as far as a word reaches. -/
theorem witness_access_too_high :
    (∀ op ∈ ([0x51, 0x52, 0xF3, 0xFD] : List Byte),
      AccessTooHigh op (2 ^ 32 - 31) 32 5 ∧ AccessTooHigh op (2 ^ 256 - 1) 32 5) ∧
    (∀ op ∈ ([0x53, 0xF3, 0xFD] : List Byte), AccessTooHigh op (2 ^ 32) 1 5) ∧
    ∀ op ∈ ([0xF3, 0xFD] : List Byte), AccessTooHigh op 0 (2 ^ 256 - 1) 5 := by
  decide +kernel

/-- MloadReads, MstoreWrites, Mstore8Writes, ReturnHalts, RevertHalts: the invariant and the
operands, at the least and the greatest depth. -/
theorem witness_access_stack :
    (inMemory [2 ^ 32 - 32] 5).Inv ∧ (inMemory [2 ^ 32 - 32] 5).stack = [2 ^ 32 - 32] ∧
    (inMemory (0 :: 32 :: List.replicate 1022 7) 5).Inv ∧
    (inMemory (0 :: 32 :: List.replicate 1022 7) 5).stack = 0 :: 32 :: List.replicate 1022 7 :=
  ⟨inMemory_inv _ _ (by decide), rfl,
    inMemory_inv _ _ (by rw [List.length_cons, List.length_cons, List.length_replicate]), rfl⟩

/-- MixedWidthAccess: a store that completes and a load after it that completes, for each of its
three parts, at the first and the last byte of the window. -/
theorem witness_MixedWidthAccess :
    (∃ s t u : State, s.Inv ∧ s.halted = false ∧ s.stack = 1 :: 5 :: [] ∧
      exec .mstore s = .next t ∧ t.halted = false ∧
      exec .mload { t with stack := 1 :: [] } = .next u ∧ u.halted = false) ∧
    (∀ p ∈ ([(1, 0), (32, 31)] : List (Word × Nat)),
      ∃ s t u : State, s.Inv ∧ s.halted = false ∧ s.stack = p.1 :: 5 :: [] ∧
      p.2 < 32 ∧ p.1.toNat = (1 : Word).toNat + p.2 ∧
      exec .mstore8 s = .next t ∧ t.halted = false ∧
      exec .mload { t with stack := 1 :: [] } = .next u ∧ u.halted = false) ∧
    (∃ s t u : State, s.Inv ∧ s.halted = false ∧ s.stack = 1 :: 5 :: [] ∧
      exec .mstore s = .next t ∧ t.halted = false ∧
      exec .ret { t with stack := 1 :: 32 :: [] } = .next u ∧ u.status = haltedStatus .ret) := by
  refine ⟨⟨inMemory [1, 5] 100, _, _, inMemory_inv _ _ (by decide), rfl, rfl,
      next_stateOf (by decide +kernel), by decide +kernel, next_stateOf (by decide +kernel),
      by decide +kernel⟩, ?_,
    ⟨inMemory [1, 5] 100, _, _, inMemory_inv _ _ (by decide), rfl, rfl,
      next_stateOf (by decide +kernel), by decide +kernel, next_stateOf (by decide +kernel),
      by decide +kernel⟩⟩
  intro p hp
  simp only [List.mem_cons, List.not_mem_nil, or_false] at hp
  obtain rfl | rfl := hp
  · exact ⟨inMemory [1, 5] 100, _, _, inMemory_inv _ _ (by decide), rfl, rfl, by decide,
      by decide +kernel, next_stateOf (by decide +kernel), by decide +kernel,
      next_stateOf (by decide +kernel), by decide +kernel⟩
  · exact ⟨inMemory [32, 5] 100, _, _, inMemory_inv _ _ (by decide), rfl, rfl, by decide,
      by decide +kernel, next_stateOf (by decide +kernel), by decide +kernel,
      next_stateOf (by decide +kernel), by decide +kernel⟩

/-- SloadReadsPort and SstoreWritesPort: the port answers a cost of 7, with gas 1 below the whole
cost and with the whole cost exactly, in both key orders; and answers of at least 1. -/
theorem witness_port :
    (inMemory [1, 2] 12).stack = 1 :: 2 :: [] ∧ (inMemory [1, 2] 12).depth ≤ 1024 ∧
    (inMemory [1, 2] 12).portCosts = 7 :: [] ∧ (inMemory [1, 2] 12).portValues = 9 :: [] ∧
    (∀ op ∈ ([0x54, 0x55] : List Byte),
      (inMemory [1, 2] 5).baseGas op ≤ (inMemory [1, 2] 5).gas.toNat ∧
      (inMemory [1, 2] 11).gas.toNat < (inMemory [1, 2] 11).baseGas op + (inMemory [1, 2] 11).portCost ∧
      (inMemory [1, 2] 12).baseGas op + (inMemory [1, 2] 12).portCost ≤ (inMemory [1, 2] 12).gas.toNat ∧
      (inMemory [1, 2] 12).baseGas op + 7 ≤ (inMemory [1, 2] 12).gas.toNat) ∧
    (inMemory [1, 2] 12).params.sstoreKeyFrom = .second ∧
    ({ inMemory [1, 2] 12 with params := { fives with sstoreKeyFrom := .top } }
      : State).params.sstoreKeyFrom = .top ∧
    PortOk (inMemory [1, 2] 12).portCosts ∧ PortOk State.reset.portCosts := by
  decide +kernel

/-- JumpToDestination and JumpiOnCondition: JD of `JUMPDEST; PUSH1 0x5B; JUMPDEST` holds its first
and its last offset, and not the immediate at 2, the end of code, or the greatest word. -/
theorem witness_JumpToDestination :
    (∀ t : Word, (inMemory [t] 5).Inv ∧ (inMemory [t] 5).stack = t :: []) ∧
    (inMemory [0] 5).baseGas 0x56 ≤ (inMemory [0] 5).gas.toNat ∧
    (∀ t ∈ [0, 3], (u256 t).toNat ∈ (inMemory [u256 t] 5).jd) ∧
    (∀ t ∈ [2, 4, 2 ^ 256 - 1], (u256 t).toNat ∉ (inMemory [u256 t] 5).jd) :=
  ⟨fun t => ⟨inMemory_inv _ _ (by simp), rfl⟩, by decide +kernel,
    by simp only [inMemory_jd]; decide +kernel, by simp only [inMemory_jd]; decide +kernel⟩

/-- `inMemory` with JUMPI_CHECK_UNTAKEN given. -/
def atJumpi (check : Bool) (t c : Word) : State :=
  { inMemory [t, c] 5 with params := { fives with jumpiCheckUntaken := check } }

theorem atJumpi_inv (check : Bool) (t c : Word) : (atJumpi check t c).Inv :=
  have hi := inMemory_inv [t, c] 5 (by simp)
  ⟨hi.1, hi.2, hi.3, hi.4, hi.5, hi.6, hi.7, hi.8, hi.9, hi.10, hi.11, hi.12⟩

theorem atJumpi_jd (check : Bool) (t c : Word) : (atJumpi check t c).jd = [0, 3] :=
  show (inMemory [t, c] 5).jd = [0, 3] from inMemory_jd _ _

/-- JumpiOnCondition: a condition of 1 and of the greatest word with targets in JD and not in it; a
condition of 0 with JUMPI_CHECK_UNTAKEN and a target not in JD; and a condition of 0 that falls
through, with the check off and with the check on. The invariant is that of `atJumpi_inv`. -/
theorem witness_JumpiOnCondition :
    (∀ c ∈ [1, 2 ^ 256 - 1], (u256 c).toNat ≠ 0 ∧
      (∀ t ∈ [0, 3], (u256 t).toNat ∈ (atJumpi false (u256 t) (u256 c)).jd) ∧
      ∀ t ∈ [2, 4, 2 ^ 256 - 1], (u256 t).toNat ∉ (atJumpi false (u256 t) (u256 c)).jd) ∧
    ((atJumpi true 2 0).params.jumpiCheckUntaken = true ∧ (2 : Word).toNat ∉ (atJumpi true 2 0).jd) ∧
    ((atJumpi false 2 0).params.jumpiCheckUntaken = false ∧
      (3 : Word).toNat ∈ (atJumpi true 3 0).jd ∧ (0 : Word).toNat = 0) ∧
    ((atJumpi true 2 0).stack = 2 :: 0 :: [] ∧
      (atJumpi true 2 0).baseGas 0x57 ≤ (atJumpi true 2 0).gas.toNat) :=
  ⟨by simp only [atJumpi_jd]; decide +kernel, ⟨rfl, by rw [atJumpi_jd]; decide⟩,
    ⟨rfl, by rw [atJumpi_jd]; decide, rfl⟩, rfl, by decide +kernel⟩

/-- FaultsCommitNothing: a fault of the base charge, and one after it. -/
theorem witness_FaultsCommitNothing :
    (∃ t, (words 0 4).halted = false ∧ exec .add (words 0 4) = .next t ∧ isFault .outOfGas = true ∧
      t.status = haltedStatus .outOfGas) ∧
    (∃ t, (words 0 5).halted = false ∧ exec .add (words 0 5) = .next t ∧
      isFault .stackUnderflow = true ∧ t.status = haltedStatus .stackUnderflow) :=
  ⟨⟨_, rfl, next_stateOf (by decide +kernel), rfl, by decide +kernel⟩,
    ⟨_, rfl, next_stateOf (by decide +kernel), rfl, by decide +kernel⟩⟩

/-- StackDelta: ADD on two words, and DUP1 up to depth 1024. -/
theorem witness_StackDelta :
    (∃ t, (words 2 5).halted = false ∧ exec .add (words 2 5) = .next t ∧
      ∀ x, isFault x = true → t.status ≠ haltedStatus x) ∧
    (∃ t, (words 1023 5).halted = false ∧ exec .dup1 (words 1023 5) = .next t ∧
      ∀ x, isFault x = true → t.status ≠ haltedStatus x) := by
  refine ⟨⟨_, rfl, next_stateOf (by decide +kernel), ?_⟩,
    ⟨_, rfl, next_stateOf (by decide +kernel), ?_⟩⟩ <;>
  · intro x hx
    cases x <;> first | exact absurd hx (by decide) | decide +kernel

/-- StepRunsDecoded, for an instruction and for one whose immediate is cut off. -/
theorem witness_StepRunsDecoded :
    ((words 2 5).halted = false ∧ decode ((words 2 5).code.drop (words 2 5).pc.toNat) = .instr .jumpdest) ∧
    ((at0 0x61 [] 5).halted = false ∧
      decode ((at0 0x61 [] 5).code.drop (at0 0x61 [] 5).pc.toNat) = .instr (.push2 0)) := by
  decide +kernel

/-- EndOfCode: the pc at the end of code, empty code and not. -/
theorem witness_EndOfCode :
    (State.reset.halted = false ∧ State.reset.code.length ≤ State.reset.pc.toNat) ∧
    ((running [0x60, 0x01] 2 [] 0).halted = false ∧
      (running [0x60, 0x01] 2 [] 0).code.length ≤ (running [0x60, 0x01] 2 [] 0).pc.toNat) := by
  decide +kernel

/-- UnassignedBytes, InvalidFaults: the ends of each range, depth 1024, gas 1 below the base cost of
INVALID and that cost exactly. -/
theorem witness_UnassignedBytes : ∀ r ∈ unassignedRanges, ∀ b ∈ [r.1, r.2],
    let s (gas : Nat) : State := { words 1024 gas with code := [BitVec.ofNat 8 b], jd := [] }
    (s 4).halted = false ∧ (s 4).code[(s 4).pc.toNat]? = some (BitVec.ofNat 8 b) ∧
    InRanges unassignedRanges (BitVec.ofNat 8 b) ∧ (s 4).depth ≤ 1024 ∧
    (s 4).gas.toNat < (s 4).baseGas 0xFE ∧ (s 5).baseGas 0xFE ≤ (s 5).gas.toNat := by
  decide +kernel

/-- RefusedBytes: the ends of each range. -/
theorem witness_RefusedBytes : ∀ r ∈ refusedRanges, ∀ b ∈ [r.1, r.2],
    (at0 (BitVec.ofNat 8 b) [] 0).halted = false ∧
    (at0 (BitVec.ofNat 8 b) [] 0).code[(at0 (BitVec.ofNat 8 b) [] 0).pc.toNat]? = some (BitVec.ofNat 8 b) ∧
    InRanges refusedRanges (BitVec.ofNat 8 b) := by
  decide +kernel

/-- HaltedFinal: HALTED = 1. -/
theorem witness_HaltedFinal :
    ({ State.reset with status := haltedStatus .outOfGas } : State).status.getLsbD 0 = true := by
  decide

/-- DecodeEncode: the least and the greatest immediate of every PUSHn. -/
theorem witness_DecodeEncode : ∀ p ∈ pushInstrs, (p.1 0).WellFormed ∧
    (p.1 (BitVec.ofNat 256 (2 ^ (8 * p.2) - 1))).WellFormed := by decide +kernel

/-- EncodeDecoded: a whole and a cut-off immediate, with bytes after and without. -/
theorem witness_EncodeDecoded :
    decode [0x61, 0x01, 0x02, 0x00] = .instr (.push2 0x0102) ∧
    decode [0x61, 0xAB] = .instr (.push2 0xAB00) := by decide +kernel

/-- JumpDestinations, JumpdestPc: in `PUSH1 0x5B; JUMPDEST` the set is that of offset 2. -/
theorem witness_JumpDestinations : buildJD [0x60, 0x5B, 0x5B] = [2] ∧
    InstrStart [0x60, 0x5B, 0x5B] 2 :=
  ⟨by decide, InstrStart.next 0 0x60 (.entry (by decide)) (by decide) (by decide)⟩

/-- Steps of each kind from a state of the invariant, at the start of an instruction: InvKept,
PcAtInstruction, ExecutionTerminates, ProgramImmutable, InputDataUnread. -/
theorem witness_step :
    ∃ s t : State, s.Inv ∧ s.AtInstr ∧ s.halted = false ∧ core.step s = .next t ∧ t.halted = false :=
  ⟨inMemory [] 5, _, inMemory_inv _ _ (by decide), .inl (.entry (by decide)), rfl,
    next_stateOf (by decide +kernel), by decide +kernel⟩

/-- PcAtInstruction at the end of code, where the step halts. -/
theorem witness_PcAtInstruction :
    ∃ s t : State, s.Inv ∧ s.AtInstr ∧ s.pc.toNat = s.code.length ∧ core.step s = .next t := by
  have hi := inMemory_inv [] 5 (by decide)
  exact ⟨{ inMemory [] 5 with pc := 4 }, _,
    ⟨hi.1, hi.2, hi.3, by decide +kernel, hi.5, hi.6, hi.7, hi.8, hi.9, hi.10, hi.11, hi.12⟩,
    .inr (by decide), by decide, next_stateOf (by decide +kernel)⟩

theorem default_progress : ProgressOk defaultParams := by
  intro i hi
  obtain ⟨h1, h2, h3, h4, h5, h6⟩ := hi
  cases i <;> first | contradiction | (simp only [opcode]; decide)

/-- ExecutionTerminates: the default parameters, a running state, and a step that does not halt; and
a state whose next byte is refused. -/
theorem witness_ExecutionTerminates :
    (∃ t : State, ProgressOk (running [0x5B] 0 [] 1).params ∧ PortOk (running [0x5B] 0 [] 1).portCosts ∧
      (running [0x5B] 0 [] 1).halted = false ∧ core.step (running [0x5B] 0 [] 1) = .next t ∧
      t.halted = false) ∧
    step (at0 0x20 [] 1) = .refused (.refusedByte 0x20) :=
  ⟨⟨_, default_progress, by decide, by decide, next_stateOf (by decide +kernel), by decide +kernel⟩, rfl⟩

/-- InputDataUnread: a step that faults and a step that is refused (`witness_step` has one that
answers a next state). -/
theorem witness_InputDataUnread :
    step { State.reset with status := haltedStatus .stop } = .fault .alreadyHalted ∧
    step (at0 0xF1 [] 1) = .refused (.refusedByte 0xF1) := ⟨rfl, rfl⟩

/-- StartState, StartMeetsInvariants: a code of CODE_MAX bytes, the most that is admitted. -/
theorem witness_start :
    ∃ (p : Params) (t : Transaction) (s : State), ParamsOk p ∧ PortOk t.portCosts ∧
      t.code.length = p.codeMax ∧ t.code.length ≤ p.codeMax ∧ startExecution p t = .next s :=
  ⟨{ defaultParams with codeMax := 2 }, ⟨[0x60, 0x01], [1], 9, [7], [9]⟩, _, by decide +kernel,
    by decide, by decide, by decide, next_stateOf (by decide +kernel)⟩

/-- MemoryOnlyGrows: a step that grows memory. -/
theorem witness_MemoryOnlyGrows :
    ∃ t, exec .mload (inMemory [32] 100) = .next t ∧ (inMemory [32] 100).msize % 32 = 0 ∧
      t.msize ≠ (inMemory [32] 100).msize :=
  ⟨_, next_stateOf (by decide +kernel), by decide +kernel, by decide +kernel⟩

/-- OnlyStoresWriteMemory: MSTORE at 1 and the bytes 0 and 33 beside it, MSTORE8 at 1 and the bytes
0 and 2, an instruction that stores nothing, and a byte from a growth. -/
theorem witness_OnlyStoresWriteMemory :
    ∃ t t' t'', (inMemory [1, 5] 100).Inv ∧
      exec .mstore (inMemory [1, 5] 100) = .next t ∧
      (∀ a ∈ [0, 33], ¬ (((inMemory [1, 5] 100).S 0).toNat ≤ a ∧
        a < ((inMemory [1, 5] 100).S 0).toNat + 32)) ∧
      (inMemory [1, 5] 100).msize ≤ 33 ∧
      exec .mstore8 (inMemory [1, 5] 100) = .next t' ∧
      (∀ a ∈ [0, 2], a ≠ ((inMemory [1, 5] 100).S 0).toNat) ∧
      exec .add (inMemory [1, 5] 100) = .next t'' :=
  ⟨_, _, _, inMemory_inv _ _ (by decide), next_stateOf (by decide +kernel), by decide +kernel,
    by decide +kernel, next_stateOf (by decide +kernel), by decide +kernel,
    next_stateOf (by decide +kernel)⟩

/-- PortTransactions, SstoreWritesPort: a step with a read, and one with a write. -/
theorem witness_PortTransactions : ∀ op ∈ ([0x54, 0x55] : List Byte),
    ∃ t, ({ inMemory [1, 2] 12 with code := [op], jd := [] } : State).halted = false ∧
      step { inMemory [1, 2] 12 with code := [op], jd := [] } = .next t ∧ t.portLog ≠ [] := by
  intro op hop
  simp only [List.mem_cons, List.not_mem_nil, or_false] at hop
  obtain rfl | rfl := hop <;>
  exact ⟨_, rfl, next_stateOf (by decide +kernel), by decide +kernel⟩

/-- The outcome that `execute` returned. -/
def returned : Host.Outcome ExecutionOutcome Fault Refusal → Option ExecutionOutcome
  | .next o => some o
  | .fault _ | .refused _ => none

/-- ExecuteReturns: the default parameters meet R9, and a transaction that is admitted. -/
theorem witness_ExecuteReturns :
    ProgressOk defaultParams ∧ PortOk (⟨[0x60, 0x01], [], 9, [7], []⟩ : Transaction).portCosts ∧
    (⟨[0x60, 0x01], [], 9, [7], []⟩ : Transaction).code.length ≤ defaultParams.codeMax := by
  exact ⟨default_progress, by decide, by decide⟩

/-- ExecuteReturns, its two ends: a program that halts (one PUSH1, then the implicit stop of R151), and one
that meets a refused byte. -/
theorem test_execute :
    returned (execute defaultParams ⟨[0x60, 0x01], [], 9, [7], []⟩) = some ⟨0, [], 6⟩ ∧
    execute defaultParams ⟨[0x20], [], 9, [], []⟩ = .refused (.refusedByte 0x20) :=
  ⟨by decide +kernel, rfl⟩

/-- Against R9, with every cost 0, the loop `JUMPDEST; PUSH1 0; JUMP` uses up the bound, and `execute`
answers no outcome (log 14). -/
theorem test_execute_endless :
    returned (execute { defaultParams with gasSchedule := List.replicate 256 0 }
      ⟨[0x5B, 0x60, 0x00, 0x56], [], 3, [], []⟩) = none := by
  decide +kernel

/-- WarmRestart: after one step, with other input and gas. -/
theorem witness_WarmRestart :
    ∃ (t t' : Transaction) (s u : State), t'.code = t.code ∧ t ≠ t' ∧
      startExecution defaultParams t = .next s ∧ core.run 1 s = .next u ∧ u ≠ s :=
  ⟨⟨[0x5B], [], 9, [], []⟩, ⟨[0x5B], [1], 3, [], []⟩, _, _, rfl, by decide,
    next_stateOf (by decide +kernel), next_stateOf (r := core.run 1 _) (by decide +kernel),
    by decide +kernel⟩

end Sys2Proof.Tests
end

section
/-! The invariants of spec/10_state.md and the runs of `execute`. A step ends the execution, and then it
writes `status`, `rdata` and `gas` only, or it runs one instruction as `Ran` says; the proofs about steps split
these two cases. -/

namespace Sys2Proof.Machine

/-! ### Every step ends the execution or runs one instruction -/

/-- `t` is `s` with the execution ended without return data and no gas gained: a fault (R160), or the
implicit stop (R151). -/
def Ended (s t : State) : Prop :=
  ∃ k g, BitVec.toNat g ≤ s.gas.toNat ∧
    t = { s with status := haltedStatus k, rdata := [], gas := g }

theorem Faulted.ended {i : Instr} {s t : State} (h : Faulted i s t) : Ended s t := by
  obtain ⟨x, g, _, hg, rfl⟩ := h.frame
  exact ⟨x, g, hg, rfl⟩

theorem exec_ended_or_ran {i : Instr} {s t : State} (h : exec i s = .next t) :
    Ended s t ∨ Ran i s t :=
  (exec_cases h).imp_left Faulted.ended

theorem step_ended_or_ran {s t : State} (h : step s = .next t) :
    Ended s t ∨ ∃ i, decode s.fetchBytes = .instr i ∧ Ran i s t := by
  obtain ⟨_, ⟨_, rfl⟩ | ⟨_, _, hf⟩ | ⟨i, hi, hf | hr⟩⟩ := step_cases h
  · exact .inl ⟨.stop, s.gas, Nat.le_refl _, rfl⟩
  · exact .inl hf.ended
  · exact .inl hf.ended
  · exact .inr ⟨i, hi, hr⟩

/-- The frame of a step (R40, R41, R42). -/
theorem step_program {s t : State} (h : step s = .next t) :
    t.params = s.params ∧ t.code = s.code ∧ t.jd = s.jd ∧ t.inputData = s.inputData := by
  obtain ⟨_, _, _, rfl⟩ | ⟨_, _, hr⟩ := step_ended_or_ran h
  · exact ⟨rfl, rfl, rfl, rfl⟩
  · exact ⟨hr.params, hr.code, hr.jd, hr.inputData⟩

/-- Settles O54: an end and a run each leave the four fields alone. -/
theorem programImmutable : Obligations.ProgramImmutable :=
  fun _ _ h => step_program h

/-! ### Status and return data (R38, R39) -/

/-- `status` is Running or one of the nine outcomes (R38, R441). -/
def State.StatusLegal (s : State) : Prop :=
  s.status = runningStatus ∨ ∃ k, s.status = haltedStatus k

/-- Return data is empty but after RETURN and REVERT (R39). -/
def State.RdataLegal (s : State) : Prop :=
  s.rdata ≠ [] → s.status = haltedStatus .ret ∨ s.status = haltedStatus .revert

theorem Control.statusLegal {i : Instr} {s t : State} (h : Control i s t) (hs : s.StatusLegal) :
    t.StatusLegal := by
  rw [State.StatusLegal]
  cases h with
  | advanced _ hst | jumped _ hst => rwa [hst]
  | stopped _ hst | returned _ hst | reverted _ hst => exact .inr ⟨_, hst⟩

theorem Control.rdataLegal {i : Instr} {s t : State} (h : Control i s t) (hs : s.RdataLegal) :
    t.RdataLegal := by
  rw [State.RdataLegal]
  cases h with
  | advanced _ hst hrd | jumped _ hst hrd => rwa [hst, hrd]
  | stopped _ _ hrd => exact fun hne => absurd hrd hne
  | returned _ hst => exact fun _ => .inl hst
  | reverted _ hst => exact fun _ => .inr hst

theorem step_statusLegal {s t : State} (hs : s.StatusLegal) (h : step s = .next t) :
    t.StatusLegal := by
  obtain ⟨k, _, _, rfl⟩ | ⟨_, _, hr⟩ := step_ended_or_ran h
  · exact .inr ⟨k, rfl⟩
  · exact hr.control.statusLegal hs

theorem State.halted_of_running {s : State} (h : s.status = runningStatus) : s.halted = false := by
  rw [State.halted, h]
  decide

/-- A halted state of a legal status has one of the nine outcomes. -/
theorem State.StatusLegal.outcome {s : State} (hs : s.StatusLegal) (hh : s.halted = true) :
    ∃ k, s.status = haltedStatus k := by
  obtain hr | hk := hs
  · rw [State.halted_of_running hr] at hh
    cases hh
  · exact hk

theorem haltedStatus_code (k : OutcomeKind) : (haltedStatus k).extractLsb' 1 4 = outcomeCode k := by
  cases k <;> decide

theorem haltedStatus_reserved (k : OutcomeKind) : (haltedStatus k).extractLsb' 5 3 = 0 := by
  cases k <;> decide

/-- Settles O43: the three parts of a halted status, and the table of codes. -/
theorem statusLayout : Obligations.StatusLayout :=
  ⟨fun k => ⟨haltedStatus_halted k, haltedStatus_code k, haltedStatus_reserved k⟩,
    rfl, rfl, rfl, rfl, rfl, rfl, rfl, rfl, rfl⟩

/-! ### The pc (R33) -/

/-- The scan from offset `i` lists offsets of the bytes it passes over. -/
theorem scanJumpDests_lt {code : List Byte} {i skip d : Nat} (h : d ∈ scanJumpDests code i skip) :
    d < i + code.length := by
  induction code generalizing i skip with
  | nil => cases h
  | cons b rest ih =>
    have later {skip' : Nat} (h : d ∈ scanJumpDests rest (i + 1) skip') :
        d < i + (b :: rest).length := by
      have := ih h
      rw [List.length_cons]
      omega
    cases skip with
    | succ skip => exact later h
    | zero =>
      rw [scanJumpDests] at h
      split at h
      · obtain rfl | h := List.mem_cons.mp h
        · simp
        · exact later h
      · exact later h

theorem buildJD_lt {code : List Byte} {d : Nat} (h : d ∈ buildJD code) : d < code.length := by
  simpa using scanJumpDests_lt h

/-- The default advance is clamped at the end of code, a jump goes to an element of JD, and a halt leaves
the pc where it was. -/
theorem Control.pc_le {i : Instr} {s t : State} (h : Control i s t) (hs : s.Inv) :
    t.pc.toNat ≤ s.code.length := by
  have ofNat_le {n : Nat} (hn : n ≤ s.code.length) : (BitVec.ofNat 32 n).toNat ≤ s.code.length := by
    rw [BitVec.toNat_ofNat]
    exact (Nat.mod_le _ _).trans hn
  cases h with
  | advanced _ _ _ hp => rw [hp]; exact ofNat_le (Nat.min_le_right _ _)
  | jumped _ _ _ d hd hp =>
    rw [hp]
    exact ofNat_le (buildJD_lt (hs.jd ▸ hd)).le
  | stopped _ _ _ hp | returned _ _ hp | reverted _ _ hp => rw [hp]; exact hs.pc

/-! ### Memory (R36, R37, R44) -/

theorem MemoryPart.msize_ge {i : Instr} {s t : State} (h : MemoryPart i s t) : s.msize ≤ t.msize := by
  obtain ⟨off, size, _, _, hz, _⟩ := h
  exact hz ▸ s.reach_ge off size

theorem MemoryPart.msize_mod {i : Instr} {s t : State} (h : MemoryPart i s t)
    (hs : s.msize % 32 = 0) : t.msize % 32 = 0 := by
  obtain ⟨off, size, _, _, hz, _⟩ := h
  exact hz ▸ s.reach_mod off size hs

/-- An access to no byte leaves the length alone, so that one that changes it is an instruction's. -/
theorem MemoryPart.accesses_of_msize_ne {i : Instr} {s t : State} (h : MemoryPart i s t)
    (hne : t.msize ≠ s.msize) : Accesses i := by
  obtain ⟨_, _, h0 | ha, _, hz, _⟩ := h
  · exact absurd (hz.trans (State.reach_of_ge (.inl h0))) hne
  · exact ha

/-- The ceiling of R68 bounds the new length, because MEM_MAX is a multiple of 32. -/
theorem MemoryPart.msize_le {i : Instr} {s t : State} (h : MemoryPart i s t) (hs : s.Inv) :
    t.msize ≤ s.params.memMax := by
  obtain ⟨off, size, _, hc, hz, _⟩ := h
  rw [hz]
  exact State.reach_le hs.params.1 hs.msizeMax fun h0 => Nat.not_lt.mp fun hlt => hc ⟨h0, hlt⟩

/-- Where every listed byte exists a growth changes no cell, so that memory is as before but for the
bytes of a store, which lie below the new length. -/
theorem MemoryPart.mem_eq {i : Instr} {s t : State} (h : MemoryPart i s t)
    (hs : ∀ c ∈ s.mem, c.1 < s.msize) :
    t.mem = s.mem ∨ ∃ off bs, StoresTo i s off bs.length ∧ off + bs.length ≤ t.msize ∧
      t.mem = Memory.writeBytes s.mem off bs := by
  obtain ⟨off, size, _, _, hz, hm⟩ := h
  rw [State.expanded_eq off size hs] at hm
  obtain hm | ⟨hst, bs, rfl, hm⟩ := hm
  · exact .inl hm
  · have h0 : bs.length ≠ 0 := by
      obtain ⟨_, ⟨_, h⟩ | ⟨_, h⟩⟩ := hst <;> omega
    exact .inr ⟨off, bs, hst, hz ▸ s.le_reach h0, hm⟩

theorem MemoryPart.wf {i : Instr} {s t : State} (h : MemoryPart i s t) (hs : s.Inv) :
    Memory.wf t.mem := by
  obtain hm | ⟨off, bs, _, _, hm⟩ := h.mem_eq hs.memLow <;> rw [hm]
  · exact hs.memForm
  · exact Memory.wf_writeBytes hs.memForm off bs

theorem MemoryPart.memLow {i : Instr} {s t : State} (h : MemoryPart i s t) (hs : s.Inv) :
    ∀ c ∈ t.mem, c.1 < t.msize := by
  intro c hc
  have old (hc : c ∈ s.mem) : c.1 < t.msize := (hs.memLow c hc).trans_le h.msize_ge
  obtain hm | ⟨off, bs, _, hle, hm⟩ := h.mem_eq hs.memLow <;> rw [hm] at hc
  · exact old hc
  · obtain ⟨_, hlt⟩ | hc := Memory.mem_writeBytes hc
    · exact hlt.trans_le hle
    · exact old hc

/-- A byte outside the range of a store reads as before. -/
theorem MemoryPart.read_eq {i : Instr} {s t : State} (h : MemoryPart i s t) (hs : s.Inv) {a : Nat}
    (hword : ¬ (i = .mstore ∧ (s.S 0).toNat ≤ a ∧ a < (s.S 0).toNat + 32))
    (hbyte : ¬ (i = .mstore8 ∧ a = (s.S 0).toNat)) : Memory.read t.mem a = Memory.read s.mem a := by
  obtain hm | ⟨off, bs, ⟨hoff, hi⟩, _, hm⟩ := h.mem_eq hs.memLow
  · rw [hm]
  · have hout : ¬ (off ≤ a ∧ a < off + bs.length) := by
      obtain ⟨hi, hl⟩ | ⟨hi, hl⟩ := hi <;> rw [hl, hoff]
      · exact fun h => hword ⟨hi, h⟩
      · exact fun h => hbyte ⟨hi, by omega⟩
    rw [hm, Memory.read_writeBytes hs.memForm, if_neg hout]

/-- A byte that memory does not have yet reads 0 (R65). -/
theorem State.Inv.read_ge {s : State} (hs : s.Inv) {a : Nat} (ha : s.msize ≤ a) :
    Memory.read s.mem a = 0 :=
  Memory.read_of_forall_ne fun c hc he => by
    have := hs.memLow c hc
    omega

/-- Settles O55: an end leaves the length alone, and a run reaches over one range. -/
theorem memoryOnlyGrows : Obligations.MemoryOnlyGrows := by
  intro i s t h
  obtain ⟨_, _, _, rfl⟩ | hr := exec_ended_or_ran h
  · exact ⟨Nat.le_refl _, id, fun hne => absurd rfl hne⟩
  · exact ⟨hr.memory.msize_ge, hr.memory.msize_mod, hr.memory.accesses_of_msize_ne⟩

/-- Settles O56: an end leaves memory alone, a run changes the bytes of its store only, and a byte at or
above the length read 0 before. -/
theorem onlyStoresWriteMemory : Obligations.OnlyStoresWriteMemory := by
  intro i s t hs h a hword hbyte
  have same : Memory.read t.mem a = Memory.read s.mem a := by
    obtain ⟨_, _, _, rfl⟩ | hr := exec_ended_or_ran h
    · rfl
    · exact hr.memory.read_eq hs hword hbyte
  exact ⟨same, fun ha => same.trans (hs.read_ge ha)⟩

/-! ### The invariant -/

theorem PortPart.portOk {i : Instr} {s t : State} (h : PortPart i s t) (hs : PortOk s.portCosts) :
    PortOk t.portCosts := by
  cases h with
  | none _ _ hc => rwa [hc]
  | read _ _ _ _ hc | write _ _ _ _ hc =>
    rw [hc]
    exact fun c hmem => hs c (List.mem_of_mem_tail hmem)

theorem step_portOk {s t : State} (hs : PortOk s.portCosts) (h : step s = .next t) :
    PortOk t.portCosts := by
  obtain ⟨_, _, _, rfl⟩ | ⟨_, _, hr⟩ := step_ended_or_ran h
  · exact hs
  · exact hr.port.portOk hs

theorem State.Inv.ended {s t : State} (hs : s.Inv) (h : Ended s t) : t.Inv := by
  obtain ⟨k, _, _, rfl⟩ := h
  exact {
    params := hs.params
    codeLen := hs.codeLen
    jd := hs.jd
    pc := hs.pc
    depth := hs.depth
    memForm := hs.memForm
    memLow := hs.memLow
    msizeGrain := hs.msizeGrain
    msizeMax := hs.msizeMax
    status := .inr ⟨k, rfl⟩
    rdata := fun hne => absurd rfl hne
    portCosts := hs.portCosts }

theorem State.Inv.ran {i : Instr} {s t : State} (hs : s.Inv) (h : Ran i s t) : t.Inv where
  params := h.params ▸ hs.params
  codeLen := by rw [h.code, h.params]; exact hs.codeLen
  jd := by rw [h.jd, h.code]; exact hs.jd
  pc := h.code ▸ h.control.pc_le hs
  depth := by
    have hcap := h.dispatched.cap
    rw [← h.depth] at hcap
    exact_mod_cast hcap
  memForm := h.memory.wf hs
  memLow := h.memory.memLow hs
  msizeGrain := h.memory.msize_mod hs.msizeGrain
  msizeMax := h.params ▸ h.memory.msize_le hs
  status := h.control.statusLegal hs.status
  rdata := h.control.rdataLegal hs.rdata
  portCosts := h.port.portOk hs.portCosts

/-- Settles O48: an end keeps the invariant, and so does a run. -/
theorem invKept : Obligations.InvKept := by
  intro s t hs h
  obtain he | ⟨_, _, hr⟩ := step_ended_or_ran h
  · exact hs.ended he
  · exact hs.ran hr

/-! ### The start of an execution (R50) -/

/-- The state an admitted execution starts in. -/
def State.started (p : Params) (t : Transaction) : State :=
  ({ State.reset with params := p, code := t.code, jd := buildJD t.code }).freshFrame t

theorem startExecution_admitted {p : Params} {t : Transaction} (h : t.code.length ≤ p.codeMax) :
    startExecution p t = .next (State.started p t) := by
  rw [startExecution, if_neg (Nat.not_lt.mpr h), State.started]

theorem startExecution_next {p : Params} {t : Transaction} {s : State}
    (h : startExecution p t = .next s) : t.code.length ≤ p.codeMax ∧ s = State.started p t := by
  rcases Nat.lt_or_ge p.codeMax t.code.length with hlt | hle
  · rw [startExecution, if_pos hlt] at h
    cases h
  · rw [startExecution_admitted hle, Host.Outcome.next.injEq] at h
    exact ⟨hle, h.symm⟩

theorem State.started_inv {p : Params} {t : Transaction} (hp : ParamsOk p) (hc : PortOk t.portCosts)
    (hl : t.code.length ≤ p.codeMax) : (State.started p t).Inv where
  params := hp
  codeLen := hl
  jd := rfl
  pc := Nat.zero_le _
  depth := Nat.zero_le _
  memForm := Memory.wf_nil
  memLow := fun _ hmem => nomatch hmem
  msizeGrain := rfl
  msizeMax := Nat.zero_le _
  status := .inl rfl
  rdata := fun hne => absurd rfl hne
  portCosts := hc

/-- Offset 0 begins an instruction, or the code is empty. -/
theorem State.started_atInstr (p : Params) (t : Transaction) : (State.started p t).AtInstr := by
  rcases Nat.eq_zero_or_pos t.code.length with h0 | hpos
  · exact .inr h0.symm
  · exact .inl (.entry hpos)

/-- Settles O50: an admitted transaction starts in `State.started`, whose fields are those of R50. -/
theorem startState : Obligations.StartState :=
  fun _ _ h => ⟨_, startExecution_admitted h, rfl, rfl, rfl, rfl, rfl, rfl, rfl, rfl, rfl, rfl, rfl⟩

/-- Settles O51: a started execution is in `State.started`, which meets each of the three. -/
theorem startMeetsInvariants : Obligations.StartMeetsInvariants := by
  intro p t s hp hc h
  obtain ⟨hl, rfl⟩ := startExecution_next h
  exact ⟨State.started_inv hp hc hl, State.started_atInstr p t, State.halted_of_running rfl⟩

theorem defaultParams_ok : ParamsOk defaultParams := by decide +kernel

/-- Settles O49: reset is the start of an execution of the empty code under the default parameters. -/
theorem resetInv : Obligations.ResetInv :=
  State.started_inv (p := defaultParams) (t := ⟨[], [], BitVec.allOnes 64, [], []⟩)
    defaultParams_ok (fun _ hmem => nomatch hmem) (Nat.zero_le _)

/-! ### Progress and the end of `execute` (R159, R45) -/

/-- A step never raises gas (R159). -/
theorem step_gas_le {s t : State} (h : step s = .next t) : t.gas.toNat ≤ s.gas.toNat := by
  obtain ⟨_, _, hg, rfl⟩ | ⟨_, _, hr⟩ := step_ended_or_ran h
  · exact hg
  · exact (Nat.le_add_right _ _).trans hr.gas

theorem State.portCost_pos {s : State} (h : PortOk s.portCosts) : 1 ≤ s.portCost := by
  rw [State.portCost]
  split
  · next c _ hc => exact h c (by rw [hc]; exact List.mem_cons_self)
  · exact Nat.le_add_left _ _

/-- An instruction that ran on pays at least 1: its base cost, or for SLOAD and SSTORE the port's. -/
theorem Ran.gas_lt {i : Instr} {s t : State} (h : Ran i s t) (hp : ProgressOk s.params)
    (hc : PortOk s.portCosts) (ht : t.halted = false) : t.gas.toNat < s.gas.toNat := by
  have hport := State.portCost_pos hc
  cases h.port with
  | read _ _ _ _ _ hg | write _ _ _ _ _ hg => omega
  | none hi =>
    have halts {k : OutcomeKind} (hst : t.status = haltedStatus k) : NeedsBaseCost i := by
      rw [State.halted_of_status hst] at ht
      cases ht
    have hneeds : NeedsBaseCost i := by
      cases h.control with
      | advanced ha =>
        obtain ⟨hstop, hret, hrevert, hinvalid, _⟩ := ha
        exact ⟨hstop, hret, hrevert, hinvalid, hi⟩
      | jumped hj => obtain rfl | rfl := hj <;> simp [NeedsBaseCost]
      | stopped _ hst | returned _ hst | reverted _ hst => exact halts hst
    have hbase : 1 ≤ s.baseGas (opcode i) := hp i hneeds
    have := h.gas
    omega

/-- R159: a step that does not halt lowers gas. -/
theorem step_gas_lt {s t : State} (hp : ProgressOk s.params) (hc : PortOk s.portCosts)
    (h : step s = .next t) (ht : t.halted = false) : t.gas.toNat < s.gas.toNat := by
  obtain ⟨_, _, _, rfl⟩ | ⟨_, _, hr⟩ := step_ended_or_ran h
  · rw [State.halted_of_status rfl] at ht
    cases ht
  · exact hr.gas_lt hp hc ht

/-- Under R9 a bound of steps above the gas is never used up. -/
theorem runToHalt_ne_stepBoundSpent {n : Nat} {s : State} (hp : ProgressOk s.params)
    (hc : PortOk s.portCosts) (hn : s.gas.toNat < n) : runToHalt n s ≠ .refused .stepBoundSpent := by
  induction n generalizing s with
  | zero => omega
  | succ n ih =>
    cases hh : s.halted with
    | true => simp [hh]
    | false =>
      obtain ⟨t, ht⟩ | ⟨op, hr⟩ := step_running hh
      · rw [runToHalt_of_step hh ht]
        cases hht : t.halted with
        | true => simp [hht]
        | false =>
          have hlt := step_gas_lt hp hc ht hht
          exact ih ((step_program ht).1 ▸ hp) (step_portOk hc ht) (by omega)
      · simp [runToHalt_of_refused hh hr]

/-- Every state a run reaches from a state of legal status has a legal status and no more gas. -/
theorem run_statusLegal_gas_le {n : Nat} {s u : State} (hs : s.StatusLegal)
    (h : core.run n s = .next u) : u.StatusLegal ∧ u.gas.toNat ≤ s.gas.toNat :=
  run_keeps (P := fun v => v.StatusLegal ∧ v.gas.toNat ≤ s.gas.toNat)
    (fun _ _ hv hstep => ⟨step_statusLegal hv.1 hstep, (step_gas_le hstep).trans hv.2⟩)
    ⟨hs, Nat.le_refl _⟩ h

theorem State.outcome_of_status {s : State} {k : OutcomeKind} (h : s.status = haltedStatus k) :
    s.outcome = outcomeCode k := by
  rw [State.outcome, h, haltedStatus_code]

theorem outcomeCode_le (k : OutcomeKind) : (outcomeCode k).toNat ≤ 8 := by
  cases k <;> decide

/-- Settles O59: by the cases of `runToHalt`; under R9 the bound of steps is not used up. -/
theorem executeReturns : Obligations.ExecuteReturns := by
  intro p t hp hc hl
  have hstart := startExecution_admitted hl
  obtain ⟨n, u, hn, hrun, hu, hh⟩ | ⟨n, op, hn, hrun, hr⟩ | hspent :=
    runToHalt_cases (t.gasBudget.toNat + 1) (State.started p t)
  · obtain ⟨hlegal, hgas⟩ := run_statusLegal_gas_le (.inl rfl) hu
    obtain ⟨k, hk⟩ := hlegal.outcome hh
    have hout := State.outcome_of_status hk
    refine ⟨_, n, hstart, hn, .inl ⟨u, k, hu, hh, hk, ?_, hout, hout ▸ outcomeCode_le k, hgas⟩⟩
    simp only [execute, hstart, hrun]
  · refine ⟨_, n, hstart, hn, .inr ⟨op, hr, ?_⟩⟩
    simp only [execute, hstart, hrun]
  · exact absurd hspent (runToHalt_ne_stepBoundSpent hp hc (Nat.lt_succ_self _))

/-! ### input_data (R42) -/

/-- The state with other input. -/
def State.withInput (s : State) (d : List Byte) : State := { s with inputData := d }

/-- The answer with other input in its next state. -/
def answerWithInput (d : List Byte) : Result → Result
  | .next t => .next (t.withInput d)
  | .fault r => .fault r
  | .refused r => .refused r

/-- A meaning that does not read the input: with other input it gives the same answer, but for the input
that it carries on. -/
def InputBlind (k : State → Result) : Prop :=
  ∀ s d, k (s.withInput d) = answerWithInput d (k s)

/-! #### The shared operations

Each is blind where the numbers and words it reads from the state do not depend on the input and the
handler that goes on is blind. -/

theorem ite_blind {p : State → Prop} [∀ s, Decidable (p s)] {k k' : State → Result}
    (hp : ∀ s d, p (s.withInput d) = p s) (hk : InputBlind k) (hk' : InputBlind k') :
    InputBlind fun s => if p s then k s else k' s := by
  intro s d
  by_cases h : p s
  · have h' : p (s.withInput d) := (hp s d).symm ▸ h
    simp only [if_pos h, if_pos h', hk s d]
  · have h' : ¬ p (s.withInput d) := (hp s d).symm ▸ h
    simp only [if_neg h, if_neg h', hk' s d]

theorem raise_blind (x : OutcomeKind) : InputBlind (raise x) := fun _ _ => rfl

theorem charge_blind {n : State → Nat} {k : State → Result} (hn : ∀ s d, n (s.withInput d) = n s)
    (hk : InputBlind k) : InputBlind fun s => charge (n s) s k :=
  ite_blind (fun s d => by rw [hn]; rfl) (raise_blind _) fun s d => by
    rw [hn]; exact hk (s.spend (n s)) d

theorem dispatch_blind {i : Instr} {k : State → Result} (hk : InputBlind k) :
    InputBlind fun s => dispatch i s k :=
  charge_blind (fun _ _ => rfl)
    (ite_blind (fun _ _ => rfl) (raise_blind _) (ite_blind (fun _ _ => rfl) (raise_blind _) hk))

theorem expand_blind {off size : State → Nat} {k : State → Result}
    (ho : ∀ s d, off (s.withInput d) = off s) (hz : ∀ s d, size (s.withInput d) = size s)
    (hk : InputBlind k) : InputBlind fun s => expand (off s) (size s) s k := by
  have grown : InputBlind fun s => charge (s.expansionCost (ceil32 (off s + size s))) s
      fun s' => k (s'.grow (ceil32 (off s + size s))) := by
    intro s d
    simp only [ho, hz]
    exact charge_blind (n := fun s' => s'.expansionCost (ceil32 (off s + size s)))
      (fun _ _ => rfl) (fun s' d => hk (s'.grow _) d) s d
  refine ite_blind (fun s d => ?_) hk (ite_blind (fun s d => ?_) (raise_blind _)
    (ite_blind (fun s d => ?_) grown hk))
  · rw [hz]
  · rw [ho, hz]; rfl
  · rw [ho, hz]; rfl

/-! #### The instruction forms -/

theorem jumpTo_blind {w : State → Word} (hw : ∀ s d, w (s.withInput d) = w s) (n : Nat) :
    InputBlind fun s => jumpTo (w s) n s :=
  ite_blind (fun s d => by rw [hw]; rfl) (fun s d => by rw [hw]; rfl) (raise_blind _)

theorem computeWord_blind {i : Instr} {n : Nat} {f : State → Word}
    (hf : ∀ s d, f (s.withInput d) = f s) : InputBlind (computeWord i n f) :=
  dispatch_blind fun s d => by rw [hf]; rfl

theorem unaryOp_blind (i : Instr) (f : Word → Word) : InputBlind (unaryOp i f) :=
  computeWord_blind fun _ _ => rfl

theorem binaryOp_blind (i : Instr) (f : Word → Word → Word) : InputBlind (binaryOp i f) :=
  computeWord_blind fun _ _ => rfl

theorem ternaryOp_blind (i : Instr) (f : Word → Word → Word → Word) : InputBlind (ternaryOp i f) :=
  computeWord_blind fun _ _ => rfl

theorem pushImmediate_blind (i : Instr) : InputBlind (pushImmediate i) :=
  computeWord_blind (f := fun _ => i.immediate.2) fun _ _ => rfl

theorem dupWord_blind (i : Instr) (k : Nat) : InputBlind (dupWord i k) :=
  computeWord_blind (f := fun s => s.S (k - 1)) fun _ _ => rfl

theorem swapWords_blind (i : Instr) (k : Nat) : InputBlind (swapWords i k) :=
  dispatch_blind fun _ _ => rfl

theorem haltWithData_blind (i : Instr) (k : OutcomeKind) : InputBlind (haltWithData i k) :=
  dispatch_blind (expand_blind (fun _ _ => rfl) (fun _ _ => rfl) fun _ _ => rfl)

/-! #### The meanings of their own

The updates of the state commute with a change of the input. -/

@[simp] theorem State.S_withInput (s : State) (d : List Byte) (i : Nat) :
    (s.withInput d).S i = s.S i := rfl

@[simp] theorem State.writeMem_withInput (s : State) (a : Nat) (bs d : List Byte) :
    (s.withInput d).writeMem a bs = (s.writeMem a bs).withInput d := rfl

@[simp] theorem State.drop_withInput (s : State) (k : Nat) (d : List Byte) :
    (s.withInput d).drop k = (s.drop k).withInput d := rfl

@[simp] theorem State.advance_withInput (s : State) (n : Nat) (d : List Byte) :
    (s.withInput d).advance n = (s.advance n).withInput d := rfl

@[simp] theorem State.takeCost_withInput (s : State) (d : List Byte) :
    (s.withInput d).takeCost = s.takeCost.withInput d := by
  simp only [State.takeCost, State.withInput]
  split <;> rfl

@[simp] theorem State.takeValue_withInput (s : State) (d : List Byte) :
    (s.withInput d).takeValue = s.takeValue.withInput d := by
  simp only [State.takeValue, State.withInput]
  split <;> rfl

theorem execSload_blind : InputBlind execSload :=
  dispatch_blind (charge_blind (fun _ _ => rfl) fun s d => by
    simp only [State.takeCost_withInput, State.takeValue_withInput]
    rfl)

theorem execSstore_blind : InputBlind execSstore :=
  dispatch_blind (charge_blind (fun _ _ => rfl) fun s d => by
    simp only [State.takeCost_withInput]
    rfl)

theorem execJumpi_blind : InputBlind execJumpi :=
  dispatch_blind (ite_blind (fun _ _ => rfl) (jumpTo_blind (fun _ _ => rfl) 2)
    (ite_blind (fun _ _ => rfl) (raise_blind _) fun _ _ => rfl))

theorem execExp_blind : InputBlind execExp :=
  dispatch_blind (charge_blind (fun _ _ => rfl) fun _ _ => rfl)

theorem execMload_blind : InputBlind execMload :=
  dispatch_blind (expand_blind (fun _ _ => rfl) (fun _ _ => rfl) fun _ _ => rfl)

theorem execMstore_blind : InputBlind execMstore :=
  dispatch_blind (expand_blind (fun _ _ => rfl) (fun _ _ => rfl) fun s d => by
    simp [answerWithInput])

theorem execMstore8_blind : InputBlind execMstore8 :=
  dispatch_blind (expand_blind (fun _ _ => rfl) (fun _ _ => rfl) fun s d => by
    simp [answerWithInput])

theorem execPop_blind : InputBlind execPop := dispatch_blind fun _ _ => rfl

theorem execJumpdest_blind : InputBlind execJumpdest := dispatch_blind fun _ _ => rfl

theorem execJump_blind : InputBlind execJump := dispatch_blind (jumpTo_blind (fun _ _ => rfl) 1)

theorem invalidOpcode_blind : InputBlind invalidOpcode := dispatch_blind (raise_blind _)

theorem execStop_blind : InputBlind execStop := dispatch_blind fun _ _ => rfl

theorem execPc_blind : InputBlind execPc :=
  computeWord_blind (f := fun s => s.pc.setWidth 256) fun _ _ => rfl

theorem execGas_blind : InputBlind execGas :=
  computeWord_blind (f := fun s => s.gas.setWidth 256) fun _ _ => rfl

theorem execMsize_blind : InputBlind execMsize := computeWord_blind fun _ _ => rfl

/-- No instruction reads the input. -/
theorem exec_blind (i : Instr) : InputBlind (exec i) := by
  cases i
  case stop => exact execStop_blind
  case pop => exact execPop_blind
  case jumpdest => exact execJumpdest_blind
  case invalid => exact invalidOpcode_blind
  case exp => exact execExp_blind
  case jump => exact execJump_blind
  case jumpi => exact execJumpi_blind
  case mload => exact execMload_blind
  case mstore => exact execMstore_blind
  case mstore8 => exact execMstore8_blind
  case sload => exact execSload_blind
  case sstore => exact execSstore_blind
  case ret | revert => exact haltWithData_blind _ _
  case pc => exact execPc_blind
  case gas => exact execGas_blind
  case msize => exact execMsize_blind
  case iszero => exact unaryOp_blind .iszero fun a => boolWord (a = 0)
  case not => exact unaryOp_blind _ _
  case addmod | mulmod => exact ternaryOp_blind _ _
  case swap1 | swap2 | swap3 | swap4 | swap5 | swap6 | swap7 | swap8 | swap9 | swap10 | swap11 |
    swap12 | swap13 | swap14 | swap15 | swap16 => exact swapWords_blind _ _
  case dup1 | dup2 | dup3 | dup4 | dup5 | dup6 | dup7 | dup8 | dup9 | dup10 | dup11 | dup12 | dup13 |
    dup14 | dup15 | dup16 => exact dupWord_blind _ _
  case lt => exact binaryOp_blind .lt fun a b => boolWord (a.toNat < b.toNat)
  case gt => exact binaryOp_blind .gt fun a b => boolWord (b.toNat < a.toNat)
  case slt => exact binaryOp_blind .slt fun a b => boolWord (signed a < signed b)
  case sgt => exact binaryOp_blind .sgt fun a b => boolWord (signed b < signed a)
  case eq => exact binaryOp_blind .eq fun a b => boolWord (a = b)
  case add | mul | sub | div | sdiv | mod | smod | signextend | and | or |
    xor | byte | shl | shr | sar => exact binaryOp_blind _ _
  all_goals exact pushImmediate_blind _

/-- Fetching does not read the input either. -/
theorem step_blind : InputBlind step := by
  intro s d
  have hh : (s.withInput d).halted = s.halted := rfl
  have hf : (s.withInput d).fetchBytes = s.fetchBytes := rfl
  simp only [step, hh, hf]
  split
  · rfl
  · split
    · rfl
    · rfl
    · exact invalidOpcode_blind s d
    · exact exec_blind _ s d

/-- Settles O57: `step` is blind to the input, read off for each of its three answers. -/
theorem inputDataUnread : Obligations.InputDataUnread := by
  intro s d
  have blind {a : Result} (h : step s = a) :
      step { s with inputData := d } = answerWithInput d a := h ▸ step_blind s d
  exact ⟨fun _ ht => blind ht, fun _ hr => blind hr, fun _ hr => blind hr⟩

end Sys2Proof.Machine
end

section
/-! Data memory between two instructions (spec/20_memory.md R71) and the storage port in one step (R82). Of a
memory access that completed, one lemma per instruction says what reached memory, the stack or the return data;
a store and a read of the same bytes are then put together from these. -/

namespace Sys2Proof.Machine

/-! ### The end of a step: a fault halts, and its outcome is a fault's -/

theorem Ended.halted {s t : State} (h : Ended s t) : t.halted = true := by
  obtain ⟨_, _, _, rfl⟩ := h
  exact State.halted_of_status rfl

theorem Faulted.not_of_running {i : Instr} {s t : State} (ht : t.halted = false) :
    ¬ Faulted i s t := by
  intro h
  rw [h.ended.halted] at ht
  cases ht

theorem Faulted.not_of_status {i : Instr} {s t : State} {k : OutcomeKind} (hk : isFault k = false)
    (ht : t.status = haltedStatus k) : ¬ Faulted i s t := by
  intro h
  obtain ⟨x, _, hx, _, rfl⟩ := h.frame
  obtain rfl := haltedStatus_inj ht
  rw [hx] at hk
  cases hk

/-- The invariant is kept by one instruction, as by a step. -/
theorem State.Inv.exec {i : Instr} {s t : State} (hs : s.Inv) (h : exec i s = .next t) : t.Inv :=
  (exec_ended_or_ran h).elim hs.ended hs.ran

/-! ### The storage port (R82) -/

/-- A run of an instruction other than STOP, RETURN and REVERT leaves `status` alone. -/
theorem Control.status_eq {i : Instr} {s t : State} (h : Control i s t)
    (hi : i ≠ .stop ∧ i ≠ .ret ∧ i ≠ .revert) : t.status = s.status := by
  obtain ⟨hstop, hret, hrevert⟩ := hi
  cases h with
  | advanced _ hst | jumped _ hst => exact hst
  | stopped hi => exact absurd hi hstop
  | returned hi => exact absurd hi hret
  | reverted hi => exact absurd hi hrevert

/-- Settles O58: an end issues nothing, and a run what its port part says; SLOAD and SSTORE do not halt. -/
theorem portTransactions : Obligations.PortTransactions := by
  intro s t hs h
  obtain ⟨_, _, _, rfl⟩ | ⟨i, hd, hr⟩ := step_ended_or_ran h
  · exact .inl rfl
  · have running (hi : i ≠ .stop ∧ i ≠ .ret ∧ i ≠ .revert) : t.halted = false := by
      rwa [State.halted, hr.control.status_eq hi]
    cases hr.port with
    | none _ hl => exact .inl hl
    | read hi key value hl =>
      subst hi
      exact .inr ⟨running (by decide), key, value, .inl ⟨hd, hl⟩⟩
    | write hi key value hl =>
      subst hi
      exact .inr ⟨running (by decide), key, value, .inr ⟨hd, hl⟩⟩

/-! ### What a completed access did (R361, R362, R363, R422) -/

/-- Where every listed byte exists, the handler of an access that did not fault goes on with the memory and
the stack from before. -/
theorem access_handler {i : Instr} {s t : State} {off size : State → Nat} {k : State → Result}
    (h : dispatch i s (fun s' => expand (off s') (size s') s' k) = .next t) (hf : ¬ Faulted i s t)
    (hm : ∀ c ∈ s.mem, c.1 < s.msize) :
    ∃ s' : State, s'.mem = s.mem ∧ s'.stack = s.stack ∧ k s' = .next t := by
  obtain ⟨hd, h⟩ := (dispatch_cases h).resolve_left hf
  obtain ⟨_, _, h⟩ := (dispatch_expand_cases h hd).resolve_left hf
  refine ⟨_, ?_, ?_, h⟩
  · rw [State.expanded_eq _ _ (by exact hm), State.spend_mem]
  · rw [State.expanded_stack, State.spend_stack]

theorem execMstore_mem {s t : State} {off v : Word} {rest : List Word} (h : execMstore s = .next t)
    (ht : t.halted = false) (hm : ∀ c ∈ s.mem, c.1 < s.msize) (hst : s.stack = off :: v :: rest) :
    t.mem = Memory.writeBytes s.mem off.toNat (wordBytes v) := by
  obtain ⟨s', hmem, hstack, hk⟩ := access_handler h (Faulted.not_of_running ht) hm
  obtain rfl := Host.Outcome.next.inj hk
  rw [hst] at hstack
  rw [State.advance_mem, State.drop_mem, State.writeMem_mem, hmem,
    State.S_cons_zero _ _ _ hstack, State.S_cons_one _ _ _ _ hstack]

theorem execMstore8_mem {s t : State} {off v : Word} {rest : List Word} (h : execMstore8 s = .next t)
    (ht : t.halted = false) (hm : ∀ c ∈ s.mem, c.1 < s.msize) (hst : s.stack = off :: v :: rest) :
    t.mem = Memory.write s.mem off.toNat (v.setWidth 8) := by
  obtain ⟨s', hmem, hstack, hk⟩ := access_handler h (Faulted.not_of_running ht) hm
  obtain rfl := Host.Outcome.next.inj hk
  rw [hst] at hstack
  rw [State.advance_mem, State.drop_mem, State.writeMem_mem, hmem,
    State.S_cons_zero _ _ _ hstack, State.S_cons_one _ _ _ _ hstack]
  rfl

theorem execMload_stack {s t : State} {off : Word} {rest : List Word} (h : execMload s = .next t)
    (ht : t.halted = false) (hm : ∀ c ∈ s.mem, c.1 < s.msize) (hst : s.stack = off :: rest) :
    t.stack = s.memWord off.toNat :: rest := by
  obtain ⟨s', hmem, hstack, hk⟩ := access_handler h (Faulted.not_of_running ht) hm
  obtain rfl := Host.Outcome.next.inj hk
  rw [hst] at hstack
  rw [State.advance_stack, State.dropPush_stack, State.S_cons_zero _ _ _ hstack, hstack,
    State.memWord, hmem, State.memWord, List.drop_one, List.tail_cons]

theorem haltWithData_rdata {i : Instr} {k : OutcomeKind} {s t : State} {off size : Word}
    {rest : List Word} (h : haltWithData i k s = .next t) (hk : isFault k = false)
    (ht : t.status = haltedStatus k) (hm : ∀ c ∈ s.mem, c.1 < s.msize)
    (hst : s.stack = off :: size :: rest) :
    t.rdata = Memory.readBytes s.mem off.toNat size.toNat := by
  obtain ⟨s', hmem, hstack, hhalt⟩ := access_handler h (Faulted.not_of_status hk ht) hm
  obtain rfl := Host.Outcome.next.inj hhalt
  rw [hst] at hstack
  rw [State.finish_rdata, hmem, State.S_cons_zero _ _ _ hstack, State.S_cons_one _ _ _ _ hstack]

/-! ### A store and a read of the same bytes (R71) -/

@[simp] theorem wordBytes_length (v : Word) : (wordBytes v).length = 32 := beBytes_length 32 v.toNat

theorem beNat_wordBytes (v : Word) : beNat (wordBytes v) = v.toNat := by
  rw [wordBytes, beNat_beBytes, Nat.mod_eq_of_lt v.isLt]

/-- The 32 bytes at the address of a stored word are the word's. -/
theorem Memory.readBytes_writeBytes_word {m : Memory} (h : Memory.wf m) (a : Nat) (v : Word) :
    Memory.readBytes (Memory.writeBytes m a (wordBytes v)) a 32 = wordBytes v := by
  simpa using Memory.readBytes_writeBytes h a (wordBytes v)

/-- MSTORE then MLOAD at one offset gives the word back. -/
theorem mstore_mload {s t u : State} {off v : Word} {rest : List Word} (hs : s.Inv)
    (hst : s.stack = off :: v :: rest) (h : exec .mstore s = .next t) (ht : t.halted = false)
    (h' : exec .mload { t with stack := off :: rest } = .next u) (hu : u.halted = false) :
    u.stack = v :: rest := by
  have hmem := execMstore_mem h ht hs.memLow hst
  rw [execMload_stack h' hu (hs.exec h).memLow rfl, State.memWord, hmem,
    Memory.readBytes_writeBytes_word hs.memForm, beNat_wordBytes, u256, BitVec.ofNat_toNat,
    BitVec.setWidth_eq]

/-- MSTORE8 into the window of an MLOAD shows at the byte of its word that the offset names. -/
theorem mstore8_mload {s t u : State} {off at' v : Word} {k : Nat} {rest : List Word} (hs : s.Inv)
    (hst : s.stack = at' :: v :: rest) (hk : k < 32) (hat : at'.toNat = off.toNat + k)
    (h : exec .mstore8 s = .next t) (ht : t.halted = false)
    (h' : exec .mload { t with stack := off :: rest } = .next u) (hu : u.halted = false) :
    (u.S 0).extractLsb' (248 - 8 * k) 8 = v.extractLsb' 0 8 := by
  have hmem := execMstore8_mem h ht hs.memLow hst
  have hword := execMload_stack h' hu (hs.exec h).memLow rfl
  rw [State.S_cons_zero _ _ _ hword, memWord_byte _ _ hk, hmem, ← hat,
    Memory.read_write hs.memForm, if_pos rfl, BitVec.setWidth_eq_extractLsb' (by decide)]

/-- MSTORE then RETURN of the 32 bytes gives the bytes of the word. -/
theorem mstore_return {s t u : State} {off v : Word} {rest : List Word} (hs : s.Inv)
    (hst : s.stack = off :: v :: rest) (h : exec .mstore s = .next t) (ht : t.halted = false)
    (h' : exec .ret { t with stack := off :: 32 :: rest } = .next u)
    (hu : u.status = haltedStatus .ret) : u.rdata = wordBytes v := by
  have hmem := execMstore_mem h ht hs.memLow hst
  have hdata := haltWithData_rdata h' rfl hu (hs.exec h).memLow rfl
  rw [hdata, hmem]
  exact Memory.readBytes_writeBytes_word hs.memForm off.toNat v

/-- Settles O22: the three pairs of a store and a read, and the byte order of a word's 32 bytes. -/
theorem mixedWidthAccess : Obligations.MixedWidthAccess := by
  refine ⟨fun _ _ _ _ _ _ hs _ hst h ht h' hu => mstore_mload hs hst h ht h' hu,
    fun _ _ _ _ _ _ _ _ hs _ hst hk hat h ht h' hu => mstore8_mload hs hst hk hat h ht h' hu,
    fun _ _ _ _ v _ hs _ hst h ht h' hu => ?_⟩
  rw [mstore_return hs hst h ht h' hu]
  exact ⟨wordBytes_length v, fun _ hk => wordBytes_getElem? v hk⟩

end Sys2Proof.Machine
end

section
/-! The encoding of spec/30_encoding.md: the decoder and the encoder undo each other, the three classes of
bytes, and the pc at the start of an instruction. `decode_instr_fields` says once what bytes that decode to an
instruction are; the other direction and the step of the pc are read off from it. -/

namespace Sys2Proof.Machine

/-! ### Decode and encode (R101, R103, R104) -/

/-- Settles O44: the row that makes the instruction reads the immediate back. -/
theorem decodeEncode : Obligations.DecodeEncode := by
  intro i rest hw
  obtain ⟨r, hr, hop, hi⟩ := instr_row i
  have himm : i.immediate.1 = r.imm := by rw [hi, (opRows_fits r hr).immediate]
  rw [encode, List.cons_append, decode_row hr hop.symm, ← himm, readImmediate_beBytes _ _ _ hw, ← hi]

/-- Bytes that decode to an instruction are its opcode byte and bytes whose zero-filled start is its
immediate. -/
theorem decode_instr_fields {bytes : List Byte} {i : Instr} (h : decode bytes = .instr i) :
    ∃ rest, bytes = opcode i :: rest ∧
      i.immediate.2.toNat = beNat (takeZeroFilled i.immediate.1 rest) := by
  obtain ⟨op, rest, r, hr, rfl, hop, rfl⟩ := decode_instr h
  have fits := opRows_fits r hr
  refine ⟨rest, ?_, ?_⟩
  · rw [fits.opcode, ← hop, BitVec.ofNat_toNat, BitVec.setWidth_eq]
  · rw [fits.immediate]
    by_cases h0 : r.imm = 0
    · simp [h0, takeZeroFilled, beNat]
    · simpa [h0] using readImmediate_toNat r.imm fits.imm_le rest

/-- Settles O45: the immediate is the number of `n` bytes, so it fits and writes those bytes back. -/
theorem encodeDecoded : Obligations.EncodeDecoded := by
  intro bytes i h
  obtain ⟨rest, rfl, himm⟩ := decode_instr_fields h
  have hlen := takeZeroFilled_length i.immediate.1 rest
  have hlt := beNat_lt (takeZeroFilled i.immediate.1 rest)
  have hback := beBytes_beNat (takeZeroFilled i.immediate.1 rest)
  rw [hlen, ← himm] at hlt hback
  refine ⟨hlt, ?_⟩
  rw [encode, hback, immediateBytes_opcode, Nat.add_comm, takeZeroFilled]

/-- Settles O46, by decoding each word. -/
theorem sampleWords : Obligations.SampleWords := by
  unfold Obligations.SampleWords
  decide

/-! ### The classes of bytes (R107, R110) -/

/-- Settles O41, by decoding each of the 256 bytes. -/
theorem byteClasses : Obligations.ByteClasses := by
  unfold Obligations.ByteClasses
  decide +kernel

/-- The ranges of R107 meet neither the opcode map nor the refused bytes. -/
theorem unassignedRanges_disjoint :
    ∀ op : Byte, InRanges unassignedRanges op →
      op.toNat ∉ opRows.map OpRow.op ∧ op.toNat ∉ refusedBytes := by
  decide +kernel

/-- A byte that is neither a row's nor refused is unassigned, whatever follows it. -/
theorem decode_of_notMem {op : Byte} (hrow : op.toNat ∉ opRows.map OpRow.op)
    (href : op.toNat ∉ refusedBytes) (rest : List Byte) : decode (op :: rest) = .unassigned op := by
  have hfind : opRows.find? (fun r => r.op == op.toNat) = none := by
    rw [List.find?_eq_none]
    intro r hr heq
    exact hrow (List.mem_map.mpr ⟨r, hr, by simpa using heq⟩)
  simp [decode, hfind, href]

theorem step_unassigned {s : State} {op : Byte} (hh : s.halted = false)
    (hd : decode s.fetchBytes = .unassigned op) : step s = invalidOpcode s := by
  simp [step, hh, hd, execUnassigned]

/-- Settles O39: the byte decodes to the invalid descriptor, whose depth check a legal stack passes. -/
theorem unassignedBytes : Obligations.UnassignedBytes := by
  intro s op hh hget hin hdepth
  obtain ⟨hrow, href⟩ := unassignedRanges_disjoint op hin
  have hd : decode s.fetchBytes = .unassigned op := by
    rw [State.fetchBytes_of_get hget, decode_of_notMem hrow href]
  rw [step_unassigned hh hd, invalidOpcode]
  refine ⟨fun hg => dispatch_outOfGas hg, fun hg => ?_⟩
  have hchecks : Dispatched .invalid s :=
    { gas := hg
      min := Nat.zero_le _
      cap := by simpa [stackColumns, stackCap] using hdepth }
  rw [dispatch_ok hchecks]
  exact raise_spend _ hg

/-! ### The pc at the start of an instruction (R105) -/

/-- Every offset the scan of R163 lists begins an instruction, when the scan is at offset `i` of the code and
the instruction after the `skip` bytes to pass over, if any is left, begins there. -/
theorem instrStart_of_mem_scanJumpDests {code l : List Byte} {i skip d : Nat}
    (hl : code.drop i = l) (hnext : i + skip < code.length → InstrStart code (i + skip))
    (h : d ∈ scanJumpDests l i skip) : InstrStart code d := by
  induction l generalizing i skip with
  | nil => cases h
  | cons b rest ih =>
    have hget : code[i]? = some b := by
      rw [← List.head?_drop, hl, List.head?_cons]
    have hrest : code.drop (i + 1) = rest := by
      rw [← List.tail_drop, hl, List.tail_cons]
    cases skip with
    | succ skip =>
      rw [Nat.add_comm skip, ← Nat.add_assoc] at hnext
      exact ih hrest hnext h
    | zero =>
      have hi : InstrStart code i := hnext (List.getElem?_eq_some_iff.mp hget).1
      have after : i + 1 + immediateBytes b < code.length →
          InstrStart code (i + 1 + immediateBytes b) := .next i b hi hget
      rw [scanJumpDests] at h
      split at h
      · rename_i hb
        subst hb
        obtain rfl | h := List.mem_cons.mp h
        · exact hi
        · exact ih hrest after h  -- JUMPDEST has no immediate, so `immediateBytes 0x5B` is 0
      · exact ih hrest after h

theorem instrStart_of_mem_buildJD {code : List Byte} {d : Nat} (h : d ∈ buildJD code) :
    InstrStart code d :=
  instrStart_of_mem_scanJumpDests (i := 0) (skip := 0) rfl .entry h

/-- Every offset in the code, and its end, fits in the pc (R33). -/
theorem State.Inv.ofNat_pc {s : State} (hs : s.Inv) {n : Nat} (hn : n ≤ s.code.length) :
    (BitVec.ofNat 32 n).toNat = n := by
  obtain ⟨_, hmax, _⟩ := hs.params
  have := hs.codeLen
  rw [BitVec.toNat_ofNat, Nat.mod_eq_of_lt (by omega)]

/-- The default advance past the instruction at the pc goes to the next one, or to the end of code. -/
theorem State.AtInstr.advance {s : State} {i : Instr} (ha : s.AtInstr) (hs : s.Inv)
    (hd : decode s.fetchBytes = .instr i) : (s.advance i.length).AtInstr := by
  obtain ⟨rest, hbytes, _⟩ := decode_instr_fields hd
  obtain ⟨hget, _⟩ := State.fetchBytes_cons hbytes
  have hlt : s.pc.toNat < s.code.length := (List.getElem?_eq_some_iff.mp hget).1
  have hstart : InstrStart s.code s.pc.toNat := ha.resolve_right hlt.ne
  rw [State.AtInstr, State.advance_code, State.advance_pc, hs.ofNat_pc (Nat.min_le_right _ _),
    length_eq, ← Nat.add_assoc]
  rcases Nat.lt_or_ge (s.pc.toNat + 1 + immediateBytes (opcode i)) s.code.length with hn | hn
  · rw [Nat.min_eq_left hn.le]
    exact .inl (.next _ _ hstart hget hn)
  · exact .inr (Nat.min_eq_right hn)

/-- The pc is at an instruction in a state with the same code and the same pc. -/
theorem State.AtInstr.congr {s t : State} (ha : s.AtInstr) (hc : t.code = s.code)
    (hp : t.pc = s.pc) : t.AtInstr := by
  rwa [State.AtInstr, hc, hp]

/-- The three ways the pc moves: the default advance, a jump to an element of JD, and a halt, where it
stays. -/
theorem Ran.atInstr {i : Instr} {s t : State} (h : Ran i s t) (hs : s.Inv) (ha : s.AtInstr)
    (hd : decode s.fetchBytes = .instr i) : t.AtInstr := by
  cases h.control with
  | advanced _ _ _ hp => exact (ha.advance hs hd).congr h.code hp
  | jumped _ _ _ d hmem hp =>
    rw [hs.jd] at hmem
    rw [State.AtInstr, h.code, hp, hs.ofNat_pc (buildJD_lt hmem).le]
    exact .inl (instrStart_of_mem_buildJD hmem)
  | stopped _ _ _ hp | returned _ _ hp | reverted _ _ hp => exact ha.congr h.code hp

/-- Settles O52: an end leaves the pc alone, and a run moves it to an instruction or to the end of code. -/
theorem pcAtInstruction : Obligations.PcAtInstruction := by
  intro s t hs ha h
  obtain ⟨_, _, _, rfl⟩ | ⟨_, hd, hr⟩ := step_ended_or_ran h
  · exact ha
  · exact hr.atInstr hs ha hd

end Sys2Proof.Machine
end

section
/-! The execution loop (spec/40_execution_loop.md): what `step` answers in each of its cases, the checks before
a handler, what a fault commits, the end of every execution, and the Jump Destination Set. `exec_cases` splits an
instruction into a fault and a run, and the status after it says which of the two it was. -/

namespace Sys2Proof.Machine

/-! ### The cases of a step (R149, R150, R151, R157) -/

theorem step_halted {s : State} (hh : s.halted = true) : step s = .fault .alreadyHalted := by
  rw [step, if_pos hh]

theorem step_instr {s : State} {i : Instr} (hh : s.halted = false)
    (hd : decode s.fetchBytes = .instr i) : step s = exec i s := by
  simp [step, hh, hd]

theorem step_refused {s : State} {op : Byte} (hh : s.halted = false)
    (hd : decode s.fetchBytes = .refused op) : step s = .refused (.refusedByte op) := by
  simp [step, hh, hd]

theorem step_endOfCode {s : State} (hh : s.halted = false)
    (hd : decode s.fetchBytes = .endOfCode) : step s = stopAtEndOfCode s := by
  simp [step, hh, hd]

/-- Settles O42: the first test of a step. -/
theorem haltedFinal : Obligations.HaltedFinal :=
  fun _ hh => step_halted hh

/-- Settles O37: the bytes at the pc are those that a step fetches. -/
theorem stepRunsDecoded : Obligations.StepRunsDecoded :=
  fun _ _ hh hd => step_instr hh hd

/-- Settles O38: no byte is left to fetch, and the implicit stop is a halt with nothing spent. -/
theorem endOfCode : Obligations.EndOfCode := by
  intro s hh hpc
  have hfetch : s.fetchBytes = [] := List.drop_eq_nil_of_le hpc
  have hstop := s.haltedWith_eq s.stack .stop [] (Nat.zero_le _)
  rw [State.spend_zero] at hstop
  rw [step_endOfCode hh (by rw [hfetch, decode]), ← hstop]
  rfl

/-- The ranges of R108 hold refused bytes only, none of them in the opcode map. -/
theorem refusedRanges_refused :
    ∀ op : Byte, InRanges refusedRanges op →
      op.toNat ∉ opRows.map OpRow.op ∧ op.toNat ∈ refusedBytes := by
  decide +kernel

/-- A refused byte outside the opcode map decodes to its refusal, whatever follows it. -/
theorem decode_of_mem_refusedBytes {op : Byte} (hrow : op.toNat ∉ opRows.map OpRow.op)
    (href : op.toNat ∈ refusedBytes) (rest : List Byte) : decode (op :: rest) = .refused op := by
  cases hd : decode (op :: rest) with
  | instr i =>
    obtain ⟨_, _, r, hr, ⟨⟩, hop, _⟩ := decode_instr hd
    exact absurd (List.mem_map.mpr ⟨r, hr, hop.symm⟩) hrow
  | unassigned op' =>
    obtain ⟨_, ⟨⟩, hnot, _⟩ := decode_unassigned hd
    exact absurd href hnot
  | refused op' =>
    obtain ⟨_, ⟨⟩, _⟩ := decode_refused hd
    rfl
  | endOfCode => cases decode_endOfCode hd

/-- Settles O40: the byte at the pc decodes to its refusal, and a step then answers no more than that. Protected, so
that `refusedBytes` stays the list of R108. -/
protected theorem refusedBytes : Obligations.RefusedBytes := by
  intro s op hh hget hin
  obtain ⟨hrow, href⟩ := refusedRanges_refused op hin
  refine step_refused hh ?_
  rw [State.fetchBytes_of_get hget, decode_of_mem_refusedBytes hrow href]

/-! ### The checks before a handler (R143, R144, R153) -/

/-- Settles O33: every instruction is a `dispatch`, which makes the three checks in this order. -/
theorem checksInOrder : Obligations.ChecksInOrder := by
  intro i s
  obtain ⟨k, hk⟩ := exec_dispatch i s
  rw [hk]
  exact ⟨dispatch_outOfGas, dispatch_underflow, dispatch_overflow⟩

/-! ### A fault and a run are told apart by the status (R160, R166) -/

/-- An instruction that ran leaves a running state Running, or halts it with an outcome that is no fault. -/
theorem Ran.status_ne_fault {i : Instr} {s t : State} {x : OutcomeKind} (h : Ran i s t)
    (hs : s.halted = false) (hx : isFault x = true) : t.status ≠ haltedStatus x := by
  intro ht
  have same (hst : t.status = s.status) : False := by
    rw [State.halted_of_status (hst ▸ ht)] at hs
    cases hs
  have other {k : OutcomeKind} (hk : isFault k = false) (hst : t.status = haltedStatus k) : False := by
    obtain rfl := haltedStatus_inj (hst.symm.trans ht)
    rw [hk] at hx
    cases hx
  cases h.control with
  | advanced _ hst | jumped _ hst => exact same hst
  | stopped _ hst | returned _ hst | reverted _ hst => exact other rfl hst

/-- The outcome of a faulted instruction is the one in its status. -/
theorem Faulted.eq_of_status {i : Instr} {s t : State} {x : OutcomeKind} (h : Faulted i s t)
    (ht : t.status = haltedStatus x) :
    (s.gas.toNat < s.baseGas (opcode i) ∧ t = s.faulted x 0) ∨
      (s.baseGas (opcode i) ≤ s.gas.toNat ∧ t = s.faulted x (s.baseGas (opcode i))) := by
  obtain ⟨hg, rfl⟩ | ⟨hg, y, _, rfl⟩ := h <;> obtain rfl := haltedStatus_inj ht
  · exact .inl ⟨hg, rfl⟩
  · exact .inr ⟨hg, rfl⟩

/-- Settles O34: the status says that the instruction faulted, and with which outcome. -/
theorem faultsCommitNothing : Obligations.FaultsCommitNothing := by
  intro i s t x hs h hx ht
  obtain hf | hr := exec_cases h
  · exact hf.eq_of_status ht
  · exact absurd ht (hr.status_ne_fault hs hx)

/-- Settles O35: the status says that the instruction ran, which takes the checks of the depth. -/
theorem stackDelta : Obligations.StackDelta := by
  intro i s t _ h hne
  obtain hf | hr := exec_cases h
  · obtain ⟨x, _, hx, _, rfl⟩ := hf.frame
    exact absurd rfl (hne x hx)
  · have hcap := hr.dispatched.cap
    rw [← hr.depth] at hcap
    exact ⟨hr.dispatched.min, hr.depth, by exact_mod_cast hcap⟩

/-! ### The end of every execution (R159) -/

/-- Settles O53: under R9 the loop of `execute` does not use up a bound of `gas + 1` steps, so that it ends in a
halted state or at a refused byte, which the machine reaches in as many steps. -/
theorem executionTerminates : Obligations.ExecutionTerminates := by
  refine ⟨fun _ _ h => step_gas_le h, fun s hp hc _ => ⟨fun _ h ht => step_gas_lt hp hc h ht, ?_⟩⟩
  obtain ⟨n, t, hn, _, hrun, ht⟩ | ⟨n, op, hn, _, hrun⟩ | hspent :=
    runToHalt_cases (s.gas.toNat + 1) s
  · exact ⟨n, hn, .inl ⟨t, hrun, ht⟩⟩
  · exact ⟨n, hn, .inr ⟨op, hrun⟩⟩
  · exact absurd hspent (runToHalt_ne_stepBoundSpent hp hc (Nat.lt_succ_self _))

/-! ### The Jump Destination Set (R163)

The scan lists markers, each at the start of an instruction (`instrStart_of_mem_buildJD`). In the other direction,
the scan passes over immediates only, so that it comes to every instruction start with nothing left to skip. -/

/-- The scan from offset `i` lists offsets of the marker. -/
theorem getElem?_of_mem_scanJumpDests {code : List Byte} {i skip d : Nat}
    (h : d ∈ scanJumpDests code i skip) : ∃ k, d = i + k ∧ code[k]? = some 0x5B := by
  induction code generalizing i skip with
  | nil => cases h
  | cons b rest ih =>
    have later {skip' : Nat} (h : d ∈ scanJumpDests rest (i + 1) skip') :
        ∃ k, d = i + k ∧ (b :: rest)[k]? = some 0x5B := by
      obtain ⟨k, rfl, hk⟩ := ih h
      exact ⟨k + 1, by omega, hk⟩
    cases skip with
    | succ skip => exact later h
    | zero =>
      rw [scanJumpDests] at h
      split at h
      · next hb =>
        obtain rfl | h := List.mem_cons.mp h
        · exact ⟨0, rfl, by rw [hb, List.getElem?_cons_zero]⟩
        · exact later h
      · exact later h

/-- To skip bytes is to scan from behind them. -/
theorem scanJumpDests_skip (code : List Byte) (i skip : Nat) :
    scanJumpDests code i skip = scanJumpDests (code.drop skip) (i + skip) 0 := by
  induction skip generalizing code i with
  | zero => rfl
  | succ skip ih =>
    cases code with
    | nil => rfl
    | cons b rest => rw [scanJumpDests, ih, List.drop_succ_cons, Nat.add_right_comm, Nat.add_assoc]

/-- The scan at an instruction goes on at the one after it. -/
theorem scanJumpDests_cons (b : Byte) (rest : List Byte) (i : Nat) :
    scanJumpDests (b :: rest) i 0 = (if b = 0x5B then [i] else []) ++
      scanJumpDests (rest.drop (immediateBytes b)) (i + 1 + immediateBytes b) 0 := by
  rw [scanJumpDests, ← scanJumpDests_skip]
  split
  · next hb =>
    subst hb
    rfl
  · rfl

/-- The scan comes to every instruction start. -/
theorem InstrStart.scan_subset {code : List Byte} {o : Nat} (h : InstrStart code o) :
    scanJumpDests (code.drop o) o 0 ⊆ buildJD code := by
  induction h with
  | entry => exact List.Subset.refl _
  | next o op _ hget _ ih =>
    obtain ⟨hlt, rfl⟩ := List.getElem?_eq_some_iff.mp hget
    rw [List.drop_eq_getElem_cons hlt, scanJumpDests_cons, List.drop_drop] at ih
    exact List.Subset.trans (List.subset_append_right _ _) ih

theorem InstrStart.mem_buildJD {code : List Byte} {d : Nat} (h : InstrStart code d)
    (hget : code[d]? = some 0x5B) : d ∈ buildJD code := by
  obtain ⟨hlt, hb⟩ := List.getElem?_eq_some_iff.mp hget
  apply h.scan_subset
  rw [List.drop_eq_getElem_cons hlt, hb, scanJumpDests_cons, if_pos rfl]
  exact List.mem_cons_self

/-- Settles O47: the scan lists markers at instruction starts, and every one of them. -/
theorem jumpDestinations : Obligations.JumpDestinations := by
  refine fun code d => ⟨⟨fun h => ⟨instrStart_of_mem_buildJD h, ?_⟩, fun h => h.1.mem_buildJD h.2⟩,
    buildJD_lt⟩
  obtain ⟨k, rfl, hk⟩ := getElem?_of_mem_scanJumpDests h
  rwa [Nat.zero_add]

end Sys2Proof.Machine
end

section
/-! The arithmetic instructions (spec/41_arithmetic.md). Each rule is its descriptor, its one byte, and a word
function: `BinaryRule.of_word` and `TernaryRule.of_word` leave the word function only, which is then compared
with the formula of the rule. EXP has a charge of its own. -/

namespace Sys2Proof.Machine

/-! ### The shape of an instruction rule (R143, R144, R153, R155) -/

/-- The descriptor part of a rule is its three constants: the checks are those of every instruction. -/
theorem DescriptorRule.of_columns {i : Instr} {op : Byte} {min base : Nat} {delta : Int}
    (hop : opcode i = op) (hcol : stackColumns i = (min, delta))
    (hbase : State.reset.baseGas op = base) : DescriptorRule i op min delta base := by
  refine ⟨hop, hcol, hbase, fun s => ?_⟩
  have h := checksInOrder i s
  rwa [hop, hcol] at h

/-- The depth of a stack that holds the operands and is no deeper than the cap passes the checks of an
instruction that does not grow it. -/
theorem DescriptorRule.dispatched {i : Instr} {op : Byte} {min base : Nat} {delta : Int}
    (hd : DescriptorRule i op min delta base) {s : State} (hdelta : delta ≤ 0)
    (hgas : s.baseGas op ≤ s.gas.toNat) (hmin : min ≤ s.depth) (hcap : s.depth ≤ 1024) :
    Dispatched i s := by
  obtain ⟨rfl, hcol, -, -⟩ := hd
  refine ⟨hgas, ?_, ?_⟩ <;> rw [hcol]
  · exact hmin
  · simp only [stackCap]
    omega

/-- An instruction encoded in one byte has length 1 (R100). -/
theorem length_of_encode {i : Instr} {op : Byte} (henc : encode i = [op]) : i.length = 1 := by
  have h := congrArg List.length henc
  rw [encode, List.length_cons, beBytes_length, Nat.add_comm] at h
  exact h

theorem BinaryRule.of_word {i : Instr} {op : Byte} {base : Nat} {f g : Word → Word → Word}
    (hd : DescriptorRule i op 2 (-1) base) (henc : encode i = [op])
    (hexec : exec i = binaryOp i f) (hf : ∀ a b, f a b = g a b) : BinaryRule i op base g := by
  refine ⟨hd, henc, fun s a b rest hs hcap hgas => ?_⟩
  have hmin : 2 ≤ s.depth := by simp [State.depth_eq, hs]
  have hdis := hd.dispatched (by decide) hgas hmin hcap
  rw [hexec, binaryOp, computeWord_done _ _ hdis, hd.1, length_of_encode henc, State.S_spend,
    State.S_spend, s.S_cons_zero _ _ hs, s.S_cons_one _ _ _ hs, hf, hs]
  rfl

theorem TernaryRule.of_word {i : Instr} {op : Byte} {base : Nat} {f g : Word → Word → Word → Word}
    (hd : DescriptorRule i op 3 (-2) base) (henc : encode i = [op])
    (hexec : exec i = ternaryOp i f) (hf : ∀ a b n, f a b n = g a b n) : TernaryRule i op base g := by
  refine ⟨hd, henc, fun s a b n rest hs hcap hgas => ?_⟩
  have hmin : 3 ≤ s.depth := by simp [State.depth_eq, hs]
  have hdis := hd.dispatched (by decide) hgas hmin hcap
  rw [hexec, ternaryOp, computeWord_done _ _ hdis, hd.1, length_of_encode henc, State.S_spend,
    State.S_spend, State.S_spend, s.S_cons_zero _ _ hs, s.S_cons_one _ _ _ hs,
    s.S_cons_two _ _ _ _ hs, hf, hs]
  rfl

/-! ### ADD, MUL, SUB (R201, R202, R203) -/

/-- Settles O1: the word functions are the formulas of the rules. -/
theorem addMulSub : Obligations.AddMulSub :=
  ⟨.of_word (f := wordAdd) (.of_columns rfl rfl rfl) rfl rfl fun _ _ => rfl,
    .of_word (f := wordMul) (.of_columns rfl rfl rfl) rfl rfl fun _ _ => rfl,
    .of_word (f := wordSub) (.of_columns rfl rfl rfl) rfl rfl fun _ _ => rfl⟩

/-! ### DIV, MOD, ADDMOD, MULMOD (R204, R206, R208, R209) -/

/-- The zero divisor, as the word and as the number. -/
theorem word_eq_zero_iff (b : Word) : b = 0 ↔ b.toNat = 0 := BitVec.toNat_inj.symm

/-- Settles O2: a divisor is the word 0 where its number is 0. -/
theorem divMod : Obligations.DivMod :=
  ⟨.of_word (f := wordDiv) (.of_columns rfl rfl rfl) rfl rfl fun _ _ => by
      simp only [wordDiv, word_eq_zero_iff],
    .of_word (f := wordMod) (.of_columns rfl rfl rfl) rfl rfl fun _ _ => by
      simp only [wordMod, word_eq_zero_iff]⟩

/-- Settles O4: the same for the modulus. -/
theorem addmodMulmod : Obligations.AddmodMulmod :=
  ⟨.of_word (f := wordAddmod) (.of_columns rfl rfl rfl) rfl rfl fun _ _ _ => by
      simp only [wordAddmod, word_eq_zero_iff],
    .of_word (f := wordMulmod) (.of_columns rfl rfl rfl) rfl rfl fun _ _ _ => by
      simp only [wordMulmod, word_eq_zero_iff]⟩

/-! ### SDIV and SMOD (R205, R207) -/

/-- The quotient truncated toward zero, as its sign and its magnitude. -/
theorem tdiv_eq_sign_mul (x y : Int) :
    x.tdiv y = (x * y).sign * ((x.natAbs / y.natAbs : Nat) : Int) := by
  rw [← Int.sign_mul_natAbs (x.tdiv y), Int.sign_tdiv, Int.natAbs_tdiv, Int.sign_mul]
  split
  · next hlt => rw [Nat.div_eq_of_lt hlt]; simp
  · rfl

/-- The remainder of the truncated quotient, as its sign and its magnitude. -/
theorem tmod_eq_sign_mul (x y : Int) :
    x.tmod y = x.sign * ((x.natAbs % y.natAbs : Nat) : Int) := by
  rw [← Int.sign_mul_natAbs (x.tmod y), Int.sign_tmod, Int.natAbs_tmod]
  split
  · next hdvd => rw [Nat.mod_eq_zero_of_dvd (Int.natAbs_dvd_natAbs.mpr hdvd)]; simp
  · rfl

theorem word_eq_zero_iff_signed (b : Word) : b = 0 ↔ signed b = 0 := BitVec.toInt_inj.symm

/-- The word function of SDIV, with the quotient that overflows apart. -/
theorem wordSdiv_eq (a b : Word) : wordSdiv a b =
    if signed b = 0 then 0
    else if signed a = -2 ^ 255 ∧ signed b = -1 then u256 (2 ^ 255)
    else u256Int ((signed a * signed b).sign *
      (((signed a).natAbs / (signed b).natAbs : Nat) : Int)) := by
  simp only [wordSdiv, word_eq_zero_iff_signed]
  split
  · rfl
  · split
    · next h => obtain ⟨ha, hb⟩ := h; rw [ha, hb]; decide
    · rw [tdiv_eq_sign_mul]

/-- Settles O3: a truncated quotient and its remainder are a sign and a magnitude. -/
theorem sdivSmod : Obligations.SdivSmod :=
  ⟨.of_word (f := wordSdiv) (.of_columns rfl rfl rfl) rfl rfl wordSdiv_eq,
    .of_word (f := wordSmod) (.of_columns rfl rfl rfl) rfl rfl fun _ _ => by
      simp only [wordSmod, word_eq_zero_iff_signed, tmod_eq_sign_mul]⟩

/-! ### EXP (R210) -/

/-- Repeated squaring computes the power. -/
theorem powMod_eq (a : Nat) {bits e : Nat} (he : e < 2 ^ bits) :
    powMod a bits e = a ^ e % 2 ^ 256 := by
  induction bits generalizing e with
  | zero =>
    obtain rfl : e = 0 := by omega
    rfl
  | succ bits ih =>
    have hhalf := ih (e := e / 2) (by omega)
    have hsq : powMod a bits (e / 2) * powMod a bits (e / 2) % 2 ^ 256 =
        a ^ (2 * (e / 2)) % 2 ^ 256 := by
      rw [hhalf, ← Nat.mul_mod, ← Nat.pow_add, Nat.two_mul]
    simp only [powMod, hsq]
    split
    · next hodd =>
      rw [Nat.mod_mul_mod, ← Nat.pow_succ, show (2 * (e / 2)).succ = e by omega]
    · next heven => rw [show 2 * (e / 2) = e by omega]

theorem wordExp_eq (a b : Word) : wordExp a b = u256 (a.toNat ^ b.toNat) := by
  apply BitVec.eq_of_toNat_eq
  rw [wordExp, powMod_eq _ b.isLt, BitVec.toNat_ofNat, BitVec.toNat_ofNat, Nat.mod_mod]

/-- `bytelen(b)` is the least number of bytes that `b` fits in. -/
theorem byteLength_eq {b : Word} {n : Nat} (hlt : b.toNat < 256 ^ n)
    (hge : ∀ m < n, 256 ^ m ≤ b.toNat) : byteLength b = n := by
  have hpow (m : Nat) : 256 ^ m = 2 ^ (8 * m) := Nat.pow_mul 2 8 m ▸ rfl
  cases n with
  | zero => rw [byteLength, if_pos ((word_eq_zero_iff b).mpr (by omega))]
  | succ n =>
    have hn := hge n n.lt_succ_self
    have h0 : b.toNat ≠ 0 := (Nat.lt_of_lt_of_le (Nat.pow_pos (by decide)) hn).ne'
    rw [hpow] at hn hlt
    have hlow := (Nat.le_log2 h0).mpr hn
    have hhigh := (Nat.log2_lt h0).mpr hlt
    rw [byteLength, if_neg (mt (word_eq_zero_iff b).mp h0)]
    omega

/-- Past its checks, EXP is a charge for the bytes of the exponent, and then its power in their place. -/
theorem exec_exp_of_stack {s : State} {a b : Word} {rest : List Word}
    (hs : s.stack = a :: b :: rest) (hd : Dispatched .exp s) : exec .exp s =
      charge (s.params.expByteCost * byteLength b) (s.spend (s.baseGas 0x0A)) fun t =>
        .next ((t.setStack (wordExp a b :: rest)).advance 1) := by
  rw [exec, execExp, dispatch_ok hd, State.S_spend, s.S_cons_one _ _ _ hs]
  apply charge_congr
  simp only [State.S_spend, State.dropPush, State.spend_stack, s.S_cons_zero _ _ hs,
    s.S_cons_one _ _ _ hs, hs]
  rfl

/-- Settles O5: the two charges are one of their sum, and a failed second one takes the first only. -/
theorem expResult : Obligations.ExpResult := by
  have hd : DescriptorRule .exp 0x0A 2 (-1) 10 := .of_columns rfl rfl rfl
  refine ⟨hd, rfl, rfl, fun s a b rest n hs hcap hlt hge hgas => ?_⟩
  have hmin : 2 ≤ s.depth := by simp [State.depth_eq, hs]
  have hdis := hd.dispatched (by decide) hgas hmin hcap
  rw [exec_exp_of_stack hs hdis, byteLength_eq hlt hge, wordExp_eq]
  constructor <;> intro hcost
  · rw [charge_fail (by rw [State.spend_toNat hgas]; omega), raise_spend _ hgas]
  · rw [charge_ok (by rw [State.spend_toNat hgas]; omega), State.spend_spend, State.done_eq _ _ hcost]

/-! ### SIGNEXTEND (R211) -/

/-- The bits of the mask over the bits from `t + 1` up. -/
theorem getLsbD_highMask {t i : Nat} (ht : t + 1 ≤ 256) :
    (u256 (2 ^ 256 - 2 ^ (t + 1))).getLsbD i = (decide (i < 256) && !decide (i < t + 1)) := by
  have hpos : 0 < 2 ^ (t + 1) := Nat.two_pow_pos _
  have hle : 2 ^ (t + 1) ≤ 2 ^ 256 := Nat.pow_le_pow_right (by decide) ht
  have hsub : 2 ^ 256 - 2 ^ (t + 1) = 2 ^ 256 - (2 ^ (t + 1) - 1 + 1) := by omega
  rw [BitVec.getLsbD_ofNat, hsub, Nat.testBit_two_pow_sub_succ (by omega),
    Nat.testBit_two_pow_sub_one, ← Bool.and_assoc, Bool.and_self]

/-- The bits of the mask over the bits up to `t`. -/
theorem getLsbD_lowMask {t i : Nat} :
    (u256 (2 ^ (t + 1) - 1)).getLsbD i = (decide (i < 256) && decide (i < t + 1)) := by
  rw [BitVec.getLsbD_ofNat, Nat.testBit_two_pow_sub_one]

/-- To set or to clear every bit above bit `t`, as that bit is, extends the sign. -/
theorem wordSignextend_eq (k x : Word) : wordSignextend k x =
    if k.toNat < 31 then (x.extractLsb' 0 (8 * k.toNat + 8)).signExtend 256 else x := by
  simp only [wordSignextend]
  split
  · next hk =>
    apply BitVec.eq_of_getLsbD_eq
    intro i hi
    have hmsb : (x.extractLsb' 0 (8 * k.toNat + 8)).msb = x.getLsbD (8 * k.toNat + 7) := by
      simp [BitVec.msb_eq_getLsbD_last]
    rw [BitVec.getLsbD_signExtend, BitVec.getLsbD_extractLsb', hmsb]
    split
    · next hbit =>
      rw [BitVec.getLsbD_or, getLsbD_highMask (by omega)]
      by_cases hlow : i < 8 * k.toNat + 8 <;> simp [hi, hlow, hbit]
    · next hbit =>
      rw [BitVec.getLsbD_and, getLsbD_lowMask]
      by_cases hlow : i < 8 * k.toNat + 8 <;> simp [hi, hlow, hbit]
  · rfl

/-- Settles O6: the two masks of the model extend the sign. -/
theorem signextendResult : Obligations.SignextendResult :=
  .of_word (f := wordSignextend) (.of_columns rfl rfl rfl) rfl rfl wordSignextend_eq

end Sys2Proof.Machine
end

section
/-! The comparison, bitwise and shift instructions (spec/42_compare_bitwise.md). As for the arithmetic ones,
each rule comes down to its word function: `UnaryRule.of_word` is the form with one operand, and a bitwise rule is a
binary rule whose word function is read bit by bit. -/

namespace Sys2Proof.Machine

/-! ### The shape of an instruction rule (R230, R237) -/

theorem UnaryRule.of_word {i : Instr} {op : Byte} {base : Nat} {f g : Word → Word}
    (hd : DescriptorRule i op 1 0 base) (henc : encode i = [op])
    (hexec : exec i = unaryOp i f) (hf : ∀ a, f a = g a) : UnaryRule i op base g := by
  refine ⟨hd, henc, fun s a rest hs hcap hgas => ?_⟩
  have hmin : 1 ≤ s.depth := by simp [State.depth_eq, hs]
  have hdis := hd.dispatched (by decide) hgas hmin hcap
  rw [hexec, unaryOp, computeWord_done _ _ hdis, hd.1, length_of_encode henc, State.S_spend,
    s.S_cons_zero _ _ hs, hf, hs]
  rfl

/-- A binary rule whose word function works on each bit alone is a bitwise rule. -/
theorem BitwiseRule.of_binaryRule {i : Instr} {op : Byte} {base : Nat} {f : Word → Word → Word}
    {g : Bool → Bool → Bool} (h : BinaryRule i op base f)
    (hbit : ∀ a b k, (f a b).getLsbD k = g (a.getLsbD k) (b.getLsbD k)) :
    BitwiseRule i op base g := by
  obtain ⟨hd, henc, hnext⟩ := h
  exact ⟨hd, henc, fun s a b rest hs hcap hgas =>
    ⟨f a b, fun k _ => hbit a b k, hnext s a b rest hs hcap hgas⟩⟩

/-! ### LT, GT, SLT, SGT, EQ, ISZERO (R231 to R236) -/

/-- The word of a decided comparison is the 1 or 0 of the rules. -/
theorem boolWord_decide (p : Prop) [Decidable p] : boolWord (decide p) = if p then 1 else 0 := by
  simp only [boolWord, decide_eq_true_eq]

/-- Settles O7: the word functions are the comparisons of the rules. -/
theorem compareResult : Obligations.CompareResult :=
  ⟨.of_word (.of_columns rfl rfl rfl) rfl rfl fun _ _ => boolWord_decide _,
    .of_word (.of_columns rfl rfl rfl) rfl rfl fun _ _ => boolWord_decide _,
    .of_word (.of_columns rfl rfl rfl) rfl rfl fun _ _ => boolWord_decide _,
    .of_word (.of_columns rfl rfl rfl) rfl rfl fun _ _ => boolWord_decide _⟩

/-- Settles O8: words are equal where their numbers are. -/
theorem eqIszero : Obligations.EqIszero :=
  ⟨.of_word (f := fun a b => boolWord (a = b)) (.of_columns rfl rfl rfl) rfl rfl fun _ _ => by
      simp only [boolWord_decide, BitVec.toNat_inj],
    .of_word (f := fun a => boolWord (a = 0)) (.of_columns rfl rfl rfl) rfl rfl fun _ => by
      simp only [boolWord_decide, word_eq_zero_iff]⟩

/-! ### AND, OR, XOR, NOT (R237 to R240) -/

/-- To flip every bit is to subtract from MAXW. -/
theorem not_eq_maxw_sub (a : Word) : ~~~a = u256 (2 ^ 256 - 1 - a.toNat) := by
  rw [← BitVec.toNat_not, u256, BitVec.ofNat_toNat, BitVec.setWidth_eq]

/-- Settles O9: the bits of AND, OR and XOR, and NOT as a difference. -/
theorem bitwiseResult : Obligations.BitwiseResult :=
  ⟨.of_binaryRule (.of_word (.of_columns rfl rfl rfl) rfl rfl fun _ _ => rfl)
      fun _ _ _ => BitVec.getLsbD_and,
    .of_binaryRule (.of_word (.of_columns rfl rfl rfl) rfl rfl fun _ _ => rfl)
      fun _ _ _ => BitVec.getLsbD_or,
    .of_binaryRule (.of_word (.of_columns rfl rfl rfl) rfl rfl fun _ _ => rfl)
      fun _ _ _ => BitVec.getLsbD_xor,
    .of_word (.of_columns rfl rfl rfl) rfl rfl not_eq_maxw_sub⟩

/-! ### BYTE (R241) -/

/-- To mask with `0xFF` is to keep the 8 lowest bits. -/
theorem and_0xFF_eq_low_byte (y : Word) : y &&& 0xFF = (y.extractLsb' 0 8).setWidth 256 := by
  apply BitVec.eq_of_toNat_eq
  have hmask : (0xFF : Word).toNat = 2 ^ 8 - 1 := rfl
  rw [BitVec.toNat_and, hmask, Nat.and_two_pow_sub_one_eq_mod, BitVec.toNat_setWidth,
    BitVec.extractLsb'_toNat, Nat.shiftRight_zero]
  omega

/-- To shift byte `i` down and to mask it is to take its 8 bits. -/
theorem wordByte_eq (i x : Word) : wordByte i x =
    if i.toNat < 32 then (x.extractLsb' (248 - 8 * i.toNat) 8).setWidth 256 else 0 := by
  have hshift (n : Nat) : (x >>> n).extractLsb' 0 8 = x.extractLsb' n 8 := by
    ext k
    simp
  rw [wordByte, and_0xFF_eq_low_byte, hshift]

/-- Settles O10: the shift and the mask of the model take one byte. -/
theorem byteResult : Obligations.ByteResult :=
  .of_word (f := wordByte) (.of_columns rfl rfl rfl) rfl rfl wordByte_eq

/-! ### SHL, SHR, SAR (R242, R243, R244) -/

/-- Settles O11: the word functions are the formulas of the rules. -/
theorem shlShr : Obligations.ShlShr :=
  ⟨.of_word (f := wordShl) (.of_columns rfl rfl rfl) rfl rfl fun _ _ => rfl,
    .of_word (f := wordShr) (.of_columns rfl rfl rfl) rfl rfl fun _ _ => rfl⟩

/-- The floor of a quotient by a power of two is its Euclidean quotient. -/
theorem wordSar_eq (n v : Word) : wordSar n v =
    if n.toNat < 256 then u256Int (signed v / 2 ^ n.toNat)
    else if v.getLsbD 255 then u256 (2 ^ 256 - 1) else 0 := by
  have hfloor : (signed v).fdiv (2 ^ n.toNat) = signed v / 2 ^ n.toNat :=
    Int.fdiv_eq_ediv_of_nonneg _ (Int.pow_nonneg (by decide))
  rw [wordSar, hfloor]
  rfl

/-- Settles O12: the divisor is positive, so that the floor is the quotient of the rule. -/
theorem sarResult : Obligations.SarResult :=
  .of_word (f := wordSar) (.of_columns rfl rfl rfl) rfl rfl wordSar_eq

end Sys2Proof.Machine
end

section
/-! The stack instructions (spec/43_stack.md). A table lemma per family gives the descriptor and the generic
meaning of each of its instructions; what that meaning answers past the checks is said once per family, for any
`n` or `k`. PUSHn from the code bytes is then the decoder's row and the immediate read byte by byte. -/

namespace Sys2Proof.Machine

/-! ### The shape of an instruction that pushes (R144, R155) -/

/-- A stack that holds the operands and has room for one more word passes the checks of an instruction that
pushes. -/
theorem DescriptorRule.dispatched_of_room {i : Instr} {op : Byte} {min base : Nat}
    (hd : DescriptorRule i op min 1 base) {s : State} (hgas : s.baseGas op ≤ s.gas.toNat)
    (hmin : min ≤ s.depth) (hroom : s.depth < 1024) : Dispatched i s := by
  obtain ⟨rfl, hcol, -, -⟩ := hd
  refine ⟨hgas, ?_, ?_⟩ <;> rw [hcol]
  · exact hmin
  · simp only [stackCap]
    omega

theorem pushOp_done {i : Instr} {op : Byte} {min base : Nat} (hd : DescriptorRule i op min 1 base)
    {s : State} (f : State → Word) (hgas : s.baseGas op ≤ s.gas.toNat) (hmin : min ≤ s.depth)
    (hroom : s.depth < 1024) :
    pushOp i f s = .next (s.done (s.baseGas op)
      (f (s.spend (s.baseGas op)) :: s.stack) i.length) := by
  rw [pushOp, computeWord_done _ _ (hd.dispatched_of_room hgas hmin hroom), hd.1, List.drop_zero]

/-! ### POP (R261) -/

/-- Settles O13: past the checks, POP is done with the rest of the stack. -/
theorem popDropsTop : Obligations.PopDropsTop := by
  have hd : DescriptorRule .pop 0x50 1 (-1) 2 := .of_columns rfl rfl rfl
  refine ⟨hd, rfl, fun s a rest hs hcap hgas => ?_⟩
  have hmin : 1 ≤ s.depth := by simp [State.depth_eq, hs]
  have hdis := hd.dispatched (by decide) hgas hmin hcap
  have hrest : rest = s.stack.drop 1 := by rw [hs, List.drop_one, List.tail_cons]
  rw [exec, execPop, dispatch_ok hdis, hrest, ← State.done_eq _ _ hgas]
  rfl

/-! ### PUSH1 to PUSH32 (R262 to R294) -/

/-- The table of PUSHn is the one of the decoder. -/
theorem pushInstrs_row {p : (Word → Instr) × Nat} (hp : p ∈ pushInstrs) :
    ⟨0x5F + p.2, p.2, p.1⟩ ∈ opRows := by
  have hrows : pushRowsLow ++ pushRowsHigh =
      pushInstrs.map fun p => ⟨0x5F + p.2, p.2, p.1⟩ := rfl
  have hmem : ⟨0x5F + p.2, p.2, p.1⟩ ∈ pushRowsLow ++ pushRowsHigh :=
    hrows ▸ List.mem_map_of_mem hp
  simp only [opRows, List.mem_append] at hmem ⊢
  tauto

theorem pushInstrs_rule {p : (Word → Instr) × Nat} (hp : p ∈ pushInstrs) (imm : Word) :
    DescriptorRule (p.1 imm) (BitVec.ofNat 8 (0x5F + p.2)) 0 1 3 ∧
    (p.1 imm).immediate = (p.2, imm) ∧ exec (p.1 imm) = pushImmediate (p.1 imm) := by
  fin_cases hp <;> exact ⟨.of_columns rfl rfl rfl, rfl, rfl⟩

/-- Settles O15: PUSHn pushes the word of its immediate, of `n` bytes. -/
theorem pushCompletes : Obligations.PushCompletes := by
  intro p hp imm
  obtain ⟨hd, himm, hexec⟩ := pushInstrs_rule hp imm
  refine ⟨hd, fun s hroom hgas => ?_⟩
  rw [hexec, pushImmediate, pushOp_done hd _ hgas (Nat.zero_le _) hroom, Instr.length, himm]

/-- There is a PUSHn for each `n` from 1 to 32. -/
theorem exists_mem_pushInstrs {n : Nat} (h1 : 1 ≤ n) (h32 : n ≤ 32) :
    ∃ make, (make, n) ∈ pushInstrs := by
  have hnums : pushInstrs.map Prod.snd = List.range' 1 32 := rfl
  have hn : n ∈ pushInstrs.map Prod.snd := by
    rw [hnums, List.mem_range'_1]
    omega
  obtain ⟨⟨make, _⟩, hmem, rfl⟩ := List.mem_map.mp hn
  exact ⟨make, hmem⟩

theorem readImmediate_lt {n : Nat} (hn : n ≤ 32) (rest : List Byte) :
    (readImmediate n rest).toNat < 2 ^ (8 * n) := by
  have hlt := beNat_lt (takeZeroFilled n rest)
  rwa [takeZeroFilled_length, ← readImmediate_toNat n hn] at hlt

/-- Byte `k` of an immediate, most significant first, is byte `k` of what follows the opcode byte, or 0 where
nothing does (R103, R104). -/
theorem extract_readImmediate {n k : Nat} (hn : n ≤ 32) (hk : k < n) (rest : List Byte) :
    (readImmediate n rest).extractLsb' (8 * (n - 1 - k)) 8 = rest.getD k 0 := by
  have hback := beBytes_beNat (takeZeroFilled n rest)
  rw [takeZeroFilled_length] at hback
  have hbyte := beBytes_getElem n (beNat (takeZeroFilled n rest)) k hk
  rw [byte_of_word _ _ (by omega)] at hbyte
  rw [← takeZeroFilled_getD n rest k hk, ← hback, List.getD_eq_getElem _ _ (by simpa using hk), hbyte]
  rfl

/-- A running state at the byte of PUSHn runs it, with the immediate read from the code. -/
theorem step_push {s : State} {p : (Word → Instr) × Nat} (hp : p ∈ pushInstrs)
    (hh : s.halted = false)
    (hget : s.code[s.pc.toNat]? = some (BitVec.ofNat 8 (0x5F + p.2))) :
    step s = exec (p.1 (readImmediate p.2 (s.code.drop (s.pc.toNat + 1)))) s := by
  have hrow := pushInstrs_row hp
  have hop : (BitVec.ofNat 8 (0x5F + p.2)).toNat = 0x5F + p.2 :=
    Nat.mod_eq_of_lt (opRows_fits _ hrow).small
  apply step_instr hh
  rw [State.fetchBytes_of_get hget, decode_row hrow hop]

/-- Settles O14: a step at the byte of PUSHn is that PUSHn, whose immediate holds the bytes of the code. -/
theorem pushFromCode : Obligations.PushFromCode := by
  intro n h1 h32
  obtain ⟨make, hp⟩ := exists_mem_pushInstrs h1 h32
  obtain ⟨⟨_, _, hbase, _⟩, _⟩ := pushInstrs_rule hp 0
  refine ⟨hbase, fun s hh hget => ?_⟩
  obtain ⟨⟨_, _, _, hchecks⟩, hdone⟩ :=
    pushCompletes _ hp (readImmediate n (s.code.drop (s.pc.toNat + 1)))
  obtain ⟨hgas, _, hover⟩ := hchecks s
  rw [step_push hp hh hget]
  refine ⟨hgas, fun hg hfull => hover hg (Nat.zero_le _) (by omega), fun hg hroom =>
    ⟨_, readImmediate_lt h32 _, fun k hk => ?_, hdone s hroom hg⟩⟩
  rw [extract_readImmediate h32 hk]
  simp [State.codeByte]

/-! ### DUP1 to DUP16 (R295 to R311) -/

theorem dupInstrs_rule {p : Instr × Nat} (hp : p ∈ dupInstrs) :
    DescriptorRule p.1 (BitVec.ofNat 8 (0x7F + p.2)) p.2 1 3 ∧
    encode p.1 = [BitVec.ofNat 8 (0x7F + p.2)] ∧ exec p.1 = dupWord p.1 p.2 := by
  fin_cases hp <;> exact ⟨.of_columns rfl rfl rfl, rfl, rfl⟩

/-- Settles O16: a stack that has `S[k-1]` is at least `k` deep. -/
theorem dupCopies : Obligations.DupCopies := by
  intro p hp
  obtain ⟨hd, henc, hexec⟩ := dupInstrs_rule hp
  refine ⟨hd, henc, fun s v hv hroom hgas => ?_⟩
  have hlt : p.2 - 1 < s.depth := (List.getElem?_eq_some_iff.mp hv).1
  have hword : s.S (p.2 - 1) = v := by simp [State.S, hv]
  rw [hexec, dupWord, pushOp_done hd _ hgas (by omega) hroom, length_of_encode henc, State.S_spend,
    hword]

/-! ### SWAP1 to SWAP16 (R312 to R328) -/

theorem swapInstrs_rule {p : Instr × Nat} (hp : p ∈ swapInstrs) :
    DescriptorRule p.1 (BitVec.ofNat 8 (0x8F + p.2)) (p.2 + 1) 0 3 ∧
    encode p.1 = [BitVec.ofNat 8 (0x8F + p.2)] ∧ exec p.1 = swapWords p.1 p.2 := by
  fin_cases hp <;> exact ⟨.of_columns rfl rfl rfl, rfl, rfl⟩

/-- The two writes of an exchange, on a stack taken apart at the two words. -/
theorem set_set_exchange (t u : Word) (between rest : List Word) :
    ((t :: (between ++ u :: rest)).set 0 u).set (between.length + 1) t =
      u :: (between ++ t :: rest) := by
  simp

/-- Settles O17: `S[k]` stands behind the words between, and the two writes change no other word. -/
theorem swapExchanges : Obligations.SwapExchanges := by
  intro p hp
  have hpos : ∀ p ∈ swapInstrs, p.2 ≠ 0 := by decide
  obtain ⟨hd, henc, hexec⟩ := swapInstrs_rule hp
  refine ⟨hd, henc, fun s t u between rest hs hlen hcap hgas => ?_⟩
  have hk : p.2 = between.length + 1 := by have := hpos p hp; omega
  have hmin : p.2 + 1 ≤ s.depth := by
    simp only [State.depth_eq, hs, hk, List.length_cons, List.length_append]
    omega
  have hword : s.S (between.length + 1) = u := by simp [State.S, hs]
  have hdis := hd.dispatched (by decide) hgas hmin hcap
  rw [hexec, swapWords_done _ hdis, hd.1, length_of_encode henc, s.S_cons_zero _ _ hs, hk, hword, hs,
    set_set_exchange]

end Sys2Proof.Machine
end

section
/-! The memory instructions (spec/44_memory_ops.md). MLOAD, MSTORE and MSTORE8 share one shape: the base charge,
`Expand` over the bytes at the top word, then the read or the write (R360). What that shape answers is said once,
and each rule adds what its handler did to the stack and to memory. -/

namespace Sys2Proof.Machine

/-! ### The shape of an instruction that accesses memory (R66, R360) -/

/-- Past its checks, an access faults at the ceiling, then at the expansion charge, and else its handler goes on
with the longer memory. -/
theorem DescriptorRule.access {i : Instr} {op : Byte} {min base size : Nat} {delta : Int}
    {k : State → Result} (hd : DescriptorRule i op min delta base) (hdelta : delta ≤ 0)
    (hexec : exec i = fun s => dispatch i s fun s' => expand (s'.S 0).toNat size s' k) {s : State}
    (hs : s.Inv) (hmin : min ≤ s.depth) (hgas : s.baseGas op ≤ s.gas.toNat) :
    (s.overCeiling (s.S 0).toNat size →
      exec i s = .next (s.faulted .memoryLimitExceeded (s.baseGas op))) ∧
    (¬ s.overCeiling (s.S 0).toNat size →
      s.gas.toNat < s.baseGas op + s.accessCost (s.S 0).toNat size →
      exec i s = .next (s.faulted .outOfGas (s.baseGas op))) ∧
    (¬ s.overCeiling (s.S 0).toNat size →
      s.baseGas op + s.accessCost (s.S 0).toNat size ≤ s.gas.toNat →
      exec i s = k { s.spend (s.baseGas op + s.accessCost (s.S 0).toNat size) with
        msize := s.reach (s.S 0).toNat size }) := by
  have hdis := hd.dispatched hdelta hgas hmin hs.depth
  simp only [hexec, dispatch_ok hdis, State.S_spend, hd.1]
  exact expand_spend hs.memLow hgas (s.S 0).toNat size k

/-- The end of an access, as the state a rule describes. -/
theorem State.done_access_eq {s : State} {cost : Nat} (m : Memory) (n : Nat) (stack : List Word)
    (len : Nat) (h : cost ≤ s.gas.toNat) :
    (({ s.spend cost with msize := n, mem := m }).setStack stack).advance len =
      { s.done cost stack len with msize := n, mem := m } :=
  State.done_eq (s := { s with msize := n, mem := m }) stack len h

/-! ### MLOAD (R361) -/

/-- Settles O18: the word that replaces the offset is the one at it, and no byte changes. -/
theorem mloadReads : Obligations.MloadReads := by
  have hd : DescriptorRule .mload 0x51 1 0 3 := .of_columns rfl rfl rfl
  refine ⟨hd, rfl, fun s off rest hs hst hgas => ?_⟩
  have hmin : 1 ≤ s.depth := by simp [State.depth_eq, hst]
  obtain rfl := s.S_cons_zero _ _ hst
  obtain rfl : s.stack.drop 1 = rest := by rw [hst, List.drop_one, List.tail_cons]
  obtain ⟨hceil, hout, hnext⟩ := hd.access (by decide) rfl hs hmin hgas
  refine ⟨hceil, hout, fun hc hcost => ⟨s.memWord (s.S 0).toNat, fun k hk => memWord_byte s _ hk, ?_⟩⟩
  rw [hnext hc hcost]
  exact congrArg _ (State.done_access_eq s.mem _ _ 1 hcost)

/-! ### MSTORE and MSTORE8 (R362, R363) -/

/-- The end of a store of `bytes` at `a`, as the state a rule describes. -/
theorem State.done_store_eq {s : State} {cost : Nat} (n a : Nat) (bytes : List Byte) (len : Nat)
    (h : cost ≤ s.gas.toNat) :
    (({ s.spend cost with msize := n }.writeMem a bytes).drop 2).advance len =
      { s.done cost (s.stack.drop 2) len with
        msize := n, mem := Memory.writeBytes s.mem a bytes } :=
  State.done_access_eq _ n _ len h

/-- A store is an access whose handler writes `bytes v` at the offset and drops both operands. -/
theorem DescriptorRule.store {i : Instr} {op : Byte} {base size : Nat} (bytes : Word → List Byte)
    (hd : DescriptorRule i op 2 (-2) base) (henc : encode i = [op])
    (hexec : exec i = fun s => dispatch i s fun s' => expand (s'.S 0).toNat size s' fun s'' =>
      .next (((s''.writeMem (s''.S 0).toNat (bytes (s''.S 1))).drop 2).advance i.length))
    {s : State} {off v : Word} {rest : List Word} (hs : s.Inv) (hst : s.stack = off :: v :: rest)
    (hgas : s.baseGas op ≤ s.gas.toNat) :
    (s.overCeiling off.toNat size →
      exec i s = .next (s.faulted .memoryLimitExceeded (s.baseGas op))) ∧
    (¬ s.overCeiling off.toNat size → s.gas.toNat < s.baseGas op + s.accessCost off.toNat size →
      exec i s = .next (s.faulted .outOfGas (s.baseGas op))) ∧
    (¬ s.overCeiling off.toNat size → s.baseGas op + s.accessCost off.toNat size ≤ s.gas.toNat →
      exec i s = .next { s.done (s.baseGas op + s.accessCost off.toNat size) rest 1 with
        msize := s.reach off.toNat size, mem := Memory.writeBytes s.mem off.toNat (bytes v) }) := by
  have hmin : 2 ≤ s.depth := by simp [State.depth_eq, hst]
  obtain rfl := s.S_cons_zero _ _ hst
  obtain rfl := s.S_cons_one _ _ _ hst
  obtain rfl : s.stack.drop 2 = rest := by rw [hst]; rfl
  obtain ⟨hceil, hout, hnext⟩ := hd.access (by decide) hexec hs hmin hgas
  refine ⟨hceil, hout, fun hc hcost => ?_⟩
  rw [hnext hc hcost, length_of_encode henc]
  exact congrArg _ (State.done_store_eq _ _ _ 1 hcost)

/-- What memory reads once a word is stored: its bytes, most significant first, and outside them as before. -/
theorem Memory.read_writeBytes_word {m : Memory} (h : Memory.wf m) (a : Nat) (v : Word) :
    (∀ k < 32, Memory.read (Memory.writeBytes m a (wordBytes v)) (a + k) =
      v.extractLsb' (248 - 8 * k) 8) ∧
    (∀ x, x < a ∨ a + 32 ≤ x →
      Memory.read (Memory.writeBytes m a (wordBytes v)) x = Memory.read m x) := by
  refine ⟨fun k hk => ?_, fun x hx => ?_⟩ <;> rw [Memory.read_writeBytes h, wordBytes_length]
  · rw [if_pos (by omega), Nat.add_sub_cancel_left, List.getD_eq_getElem?_getD,
      wordBytes_getElem? v hk, Option.getD_some]
  · rw [if_neg (by omega)]

/-- Settles O19: the store writes the 32 bytes of the word. -/
theorem mstoreWrites : Obligations.MstoreWrites := by
  have hd : DescriptorRule .mstore 0x52 2 (-2) 3 := .of_columns rfl rfl rfl
  refine ⟨hd, rfl, fun s off v rest hs hst hgas => ?_⟩
  obtain ⟨hceil, hout, hnext⟩ := hd.store wordBytes rfl rfl hs hst hgas
  obtain ⟨hin, hother⟩ := Memory.read_writeBytes_word hs.memForm off.toNat v
  exact ⟨hceil, hout, fun hc hcost =>
    ⟨_, hin, hother, Memory.wf_writeBytes hs.memForm _ _, hnext hc hcost⟩⟩

/-- Settles O20: the store writes one byte, the low one of the word. -/
theorem mstore8Writes : Obligations.Mstore8Writes := by
  have hd : DescriptorRule .mstore8 0x53 2 (-2) 3 := .of_columns rfl rfl rfl
  refine ⟨hd, rfl, fun s off v rest hs hst hgas => ?_⟩
  obtain ⟨hceil, hout, hnext⟩ := hd.store (fun v => [v.setWidth 8]) rfl rfl hs hst hgas
  have hread := Memory.read_write hs.memForm off.toNat (v.setWidth 8)
  refine ⟨hceil, hout, fun hc hcost => ⟨_, ?_, fun a ha => (hread a).trans (if_neg ha),
    Memory.wf_write hs.memForm _ _, hnext hc hcost⟩⟩
  rw [hread, if_pos rfl, BitVec.setWidth_eq_extractLsb' (by decide)]

/-! ### MSIZE (R364) -/

/-- The word of a length that fits is the length. -/
theorem State.msizeWord_toNat {s : State} (h : s.msize < 2 ^ 256) : s.msizeWord.toNat = s.msize := by
  rw [State.msizeWord, if_pos h, BitVec.toNat_ofNat, Nat.mod_eq_of_lt h]

/-- Settles O21: the pushed word is `msizeWord`, which a charge does not change. -/
theorem msizePushes : Obligations.MsizePushes := by
  have hd : DescriptorRule .msize 0x59 0 1 2 := .of_columns rfl rfl rfl
  refine ⟨hd, rfl, fun s hroom hgas => ⟨s.msizeWord, State.msizeWord_toNat, ?_⟩⟩
  exact pushOp_done hd State.msizeWord hgas (Nat.zero_le _) hroom

end Sys2Proof.Machine
end

section
/-! The gas and storage-port instructions (spec/45_gas_storage.md). SLOAD and SSTORE share one shape: the base charge,
then the port's cost answer, then the transaction (R380). What that shape answers is said once, and each rule adds
what its handler did to the stack and to the port. -/

namespace Sys2Proof.Machine

/-! ### GAS (R381) -/

/-- Settles O23: the word read after the base charge is the gas that the charge left. -/
theorem gasPushesCounter : Obligations.GasPushesCounter := by
  have hd : DescriptorRule .gas 0x5A 0 1 2 := .of_columns rfl rfl rfl
  refine ⟨hd, rfl, fun s hroom hgas => ?_⟩
  have hdone := pushOp_done hd (fun t => t.gas.setWidth 256) hgas (Nat.zero_le _) hroom
  rwa [← BitVec.ofNat_toNat, State.spend_toNat hgas] at hdone

/-! ### The port and a charge (R80, R81, R152) -/

theorem State.takeCost_spend (s : State) (n : Nat) : (s.spend n).takeCost = s.takeCost.spend n := by
  cases h : s.portCosts <;> simp [State.takeCost, State.spend, h]

theorem State.takeValue_spend (s : State) (n : Nat) :
    (s.spend n).takeValue = s.takeValue.spend n := by
  cases h : s.portValues <;> simp [State.takeValue, State.spend, h]

theorem State.portCost_of_cons {s : State} {c : Nat} {cs : List Nat} (h : s.portCosts = c :: cs) :
    s.portCost = c := by simp [State.portCost, h]

theorem State.takeCost_of_cons {s : State} {c : Nat} {cs : List Nat} (h : s.portCosts = c :: cs) :
    s.takeCost = { s with portCosts := cs } := by simp [State.takeCost, h]

theorem State.portValue_of_cons {s : State} {v : Word} {vs : List Word}
    (h : s.portValues = v :: vs) : s.portValue = v := by simp [State.portValue, h]

theorem State.takeValue_of_cons {s : State} {v : Word} {vs : List Word}
    (h : s.portValues = v :: vs) : s.takeValue = { s with portValues := vs } := by
  simp [State.takeValue, h]

/-! ### The shape of an instruction that uses the port (R380) -/

/-- Past its checks, an instruction that pays the port's cost answer faults for lack of gas with its base cost
charged, and else its handler goes on with the sum spent. -/
theorem DescriptorRule.port {i : Instr} {op : Byte} {min base : Nat} {delta : Int}
    {k : State → Result} (hd : DescriptorRule i op min delta base) (hdelta : delta ≤ 0)
    (hexec : exec i = fun s => dispatch i s fun s' => charge s'.portCost s' k) {s : State}
    (hmin : min ≤ s.depth) (hcap : s.depth ≤ 1024) (hgas : s.baseGas op ≤ s.gas.toNat) :
    (s.gas.toNat < s.baseGas op + s.portCost →
      exec i s = .next (s.faulted .outOfGas (s.baseGas op))) ∧
    (s.baseGas op + s.portCost ≤ s.gas.toNat →
      exec i s = k (s.spend (s.baseGas op + s.portCost))) := by
  have hdis := hd.dispatched hdelta hgas hmin hcap
  have hleft := State.spend_toNat hgas
  have hcharge : exec i s = charge s.portCost (s.spend (s.baseGas op)) k := by
    simp only [hexec, dispatch_ok hdis, hd.1]
    rfl
  rw [hcharge]
  constructor <;> intro hcost
  · rw [charge_fail (by omega), raise_spend _ hgas]
  · rw [charge_ok (by omega), State.spend_spend]

/-- The end of an instruction that issued a transaction, as the state a rule describes. -/
theorem State.done_logPort_eq {s : State} {cost : Nat} (x : PortTransaction) (stack : List Word)
    (len : Nat) (h : cost ≤ s.gas.toNat) :
    (((s.spend cost).logPort x).setStack stack).advance len =
      { s.done cost stack len with portLog := s.portLog ++ [x] } :=
  State.done_eq (s := s.logPort x) stack len h

/-! ### SLOAD (R382) -/

/-- Past its checks, SLOAD charges the port's cost answer, and only then reads. -/
theorem exec_sload_of_stack {s : State} {key : Word} {rest : List Word}
    (hs : s.stack = key :: rest) (hcap : s.depth ≤ 1024) (hgas : s.baseGas 0x54 ≤ s.gas.toNat) :
    (s.gas.toNat < s.baseGas 0x54 + s.portCost →
      exec .sload s = .next (s.faulted .outOfGas (s.baseGas 0x54))) ∧
    (s.baseGas 0x54 + s.portCost ≤ s.gas.toNat →
      exec .sload s = .next
        { s.takeCost.takeValue.done (s.baseGas 0x54 + s.portCost)
            (s.takeCost.portValue :: rest) 1 with
          portLog := s.portLog ++ [.read key s.takeCost.portValue] }) := by
  have hd : DescriptorRule .sload 0x54 1 0 0 := .of_columns rfl rfl rfl
  have hmin : 1 ≤ s.depth := by simp [State.depth_eq, hs]
  obtain ⟨hout, hnext⟩ := hd.port (by decide) rfl hmin hcap hgas
  refine ⟨hout, fun hcost => ?_⟩
  have hdone := State.done_logPort_eq (s := s.takeCost.takeValue)
    (.read key s.takeCost.portValue) (s.takeCost.portValue :: rest) 1 (by simpa using hcost)
  rw [hnext hcost]
  simp only [State.takeCost_spend, State.takeValue_spend, State.dropPush, State.logPort_stack,
    State.spend_stack, State.takeValue_stack, State.takeCost_stack, State.S_spend, State.S_takeCost,
    s.S_cons_zero _ _ hs, hs]
  rw [State.takeValue_portLog, State.takeCost_portLog] at hdone
  exact congrArg _ hdone

/-- Settles O24: answers lined up are taken in order, and a cost answer is at least 1 (R9). -/
theorem sloadReadsPort : Obligations.SloadReadsPort := by
  refine ⟨.of_columns rfl rfl rfl, rfl, fun _ _ _ => exec_sload_of_stack,
    fun s key v rest vs c cs hs hcap hc hv hcost => ?_, fun _ => State.portCost_pos⟩
  obtain rfl := State.portCost_of_cons hc
  obtain ⟨-, hnext⟩ := exec_sload_of_stack hs hcap (by omega)
  have hvalues : s.takeCost.portValues = v :: vs := by rw [State.takeCost_portValues, hv]
  rw [hnext hcost, State.portValue_of_cons hvalues, State.takeValue_of_cons hvalues,
    State.takeCost_of_cons hc]
  rfl

/-! ### No write is taken back (R83) -/

theorem PortPart.portLog_prefix {i : Instr} {s t : State} (h : PortPart i s t) :
    s.portLog <+: t.portLog := by
  cases h with
  | none _ hl => rw [hl]
  | read _ _ _ hl | write _ _ _ hl =>
    rw [hl]
    exact List.prefix_append _ _

theorem exec_portLog_prefix {i : Instr} {s t : State} (h : exec i s = .next t) :
    s.portLog <+: t.portLog := by
  obtain ⟨_, _, _, rfl⟩ | hr := exec_ended_or_ran h
  · exact List.prefix_rfl
  · exact hr.port.portLog_prefix

/-! ### SSTORE (R383) -/

/-- Past its checks, SSTORE charges the port's cost answer, and only then writes. -/
theorem exec_sstore_of_stack {s : State} {x y : Word} {rest : List Word}
    (hs : s.stack = x :: y :: rest) (hcap : s.depth ≤ 1024)
    (hgas : s.baseGas 0x55 ≤ s.gas.toNat) :
    (s.gas.toNat < s.baseGas 0x55 + s.portCost →
      exec .sstore s = .next (s.faulted .outOfGas (s.baseGas 0x55))) ∧
    (s.baseGas 0x55 + s.portCost ≤ s.gas.toNat →
      exec .sstore s = .next { s.takeCost.done (s.baseGas 0x55 + s.portCost) rest 1 with
        portLog := s.portLog ++ [.write s.sstoreOperands.1 s.sstoreOperands.2] }) := by
  have hd : DescriptorRule .sstore 0x55 2 (-2) 0 := .of_columns rfl rfl rfl
  have hmin : 2 ≤ s.depth := by simp [State.depth_eq, hs]
  obtain ⟨hout, hnext⟩ := hd.port (by decide) rfl hmin hcap hgas
  refine ⟨hout, fun hcost => ?_⟩
  have hdone := State.done_logPort_eq (s := s.takeCost)
    (.write s.sstoreOperands.1 s.sstoreOperands.2) rest 1 (by simpa using hcost)
  rw [hnext hcost]
  simp only [State.takeCost_spend, State.drop, State.logPort_stack, State.spend_stack,
    State.takeCost_stack, State.sstoreOperands_spend, hs]
  rw [State.takeCost_portLog] at hdone
  exact congrArg _ hdone

theorem State.sstoreOperands_of_second {s : State} {x y : Word} {rest : List Word}
    (hs : s.stack = x :: y :: rest) (h : s.params.sstoreKeyFrom = .second) :
    s.sstoreOperands = (y, x) := by
  simp only [State.sstoreOperands, h, s.S_cons_zero _ _ hs, s.S_cons_one _ _ _ hs]

theorem State.sstoreOperands_of_top {s : State} {x y : Word} {rest : List Word}
    (hs : s.stack = x :: y :: rest) (h : s.params.sstoreKeyFrom = .top) :
    s.sstoreOperands = (x, y) := by
  simp only [State.sstoreOperands, h, s.S_cons_zero _ _ hs, s.S_cons_one _ _ _ hs]

/-- Settles O25: the write is the one of `sstoreOperands`, and no instruction shortens the log. -/
theorem sstoreWritesPort : Obligations.SstoreWritesPort := by
  refine ⟨.of_columns rfl rfl rfl, rfl, rfl, fun s x y rest hs hcap hgas => ?_,
    fun _ => State.portCost_pos, fun _ _ _ => exec_portLog_prefix⟩
  obtain ⟨hout, hnext⟩ := exec_sstore_of_stack hs hcap hgas
  refine ⟨hout, fun hcost => ⟨fun hkey => ?_, fun hkey => ?_⟩⟩ <;> rw [hnext hcost]
  · rw [State.sstoreOperands_of_second hs hkey]
  · rw [State.sstoreOperands_of_top hs hkey]

end Sys2Proof.Machine
end

section
/-! The control-flow instructions (spec/46_control_flow.md). JUMP and a taken JUMPI share `jumpTo`: what it answers
after the base charge, for a target in JD and for any other, is said once. JUMPI not taken, JUMPDEST and PC make the
default advance. -/

namespace Sys2Proof.Machine

/-! ### Jump targets (R165, R400) -/

theorem State.validTarget_iff {s : State} {t : Word} : s.validTarget t = true ↔ t.toNat ∈ s.jd :=
  List.contains_iff_mem

theorem State.validTarget_spend (s : State) (n : Nat) (t : Word) :
    (s.spend n).validTarget t = s.validTarget t := rfl

/-- A target in JD is an offset in the code, so that it fits in the pc. -/
theorem State.Inv.target_toNat {s : State} (hs : s.Inv) {t : Word} (ht : t.toNat ∈ s.jd) :
    (t.setWidth 32).toNat = t.toNat := by
  rw [← BitVec.ofNat_toNat]
  exact hs.ofNat_pc (buildJD_lt (hs.jd ▸ ht)).le

/-! ### A jump after the base charge (R156, R160) -/

/-- A charge, a new stack and a jump, as the state a rule describes. -/
theorem State.done_jump_eq {s : State} {cost : Nat} (stack : List Word) (t : Word)
    (h : cost ≤ s.gas.toNat) :
    ((s.spend cost).setStack stack).setPc t.toNat =
      { s.done cost stack 0 with pc := t.setWidth 32 } := by
  rw [← State.done_eq _ _ h, ← BitVec.ofNat_toNat]
  rfl

theorem jumpTo_of_mem {s : State} {cost : Nat} {t : Word} (n : Nat) (hgas : cost ≤ s.gas.toNat)
    (ht : t.toNat ∈ s.jd) :
    jumpTo t n (s.spend cost) =
      .next { s.done cost (s.stack.drop n) 0 with pc := t.setWidth 32 } := by
  rw [jumpTo, State.validTarget_spend, if_pos (State.validTarget_iff.mpr ht),
    ← State.done_jump_eq _ _ hgas]
  rfl

theorem jumpTo_of_not_mem {s : State} {cost : Nat} {t : Word} (n : Nat) (hgas : cost ≤ s.gas.toNat)
    (ht : t.toNat ∉ s.jd) :
    jumpTo t n (s.spend cost) = .next (s.faulted .invalidJumpDestination cost) := by
  rw [jumpTo, State.validTarget_spend, if_neg (mt State.validTarget_iff.mp ht), raise_spend _ hgas]

/-! ### JUMP (R401) -/

/-- Settles O26: past its checks, JUMP is `jumpTo` its operand. -/
theorem jumpToDestination : Obligations.JumpToDestination := by
  have hd : DescriptorRule .jump 0x56 1 (-1) 8 := .of_columns rfl rfl rfl
  refine ⟨hd, rfl, fun s t rest hs hst hgas => ?_⟩
  have hmin : 1 ≤ s.depth := by simp [State.depth_eq, hst]
  have hdis := hd.dispatched (by decide) hgas hmin hs.depth
  obtain rfl := s.S_cons_zero _ _ hst
  obtain rfl : s.stack.drop 1 = rest := by rw [hst, List.drop_one, List.tail_cons]
  rw [exec, execJump, dispatch_ok hdis, hd.1, State.S_spend]
  exact ⟨fun ht => ⟨hs.target_toNat ht, jumpTo_of_mem 1 hgas ht⟩, jumpTo_of_not_mem 1 hgas⟩

/-! ### JUMPI (R402) -/

theorem conditionHolds_iff {c : Word} : conditionHolds c = true ↔ c.toNat ≠ 0 := by
  rw [conditionHolds, decide_eq_true_iff, Ne, word_eq_zero_iff]

/-- Past its checks, JUMPI looks at its condition, and then at its target. -/
theorem exec_jumpi_of_dispatched {s : State} (h : Dispatched .jumpi s) :
    exec .jumpi s =
      if (s.S 1).toNat ≠ 0 then jumpTo (s.S 0) 2 (s.spend (s.baseGas 0x57))
      else if s.params.jumpiCheckUntaken = true ∧ (s.S 0).toNat ∉ s.jd then
        .next (s.faulted .invalidJumpDestination (s.baseGas 0x57))
      else .next (s.done (s.baseGas 0x57) (s.stack.drop 2) 1) := by
  have hgas : s.baseGas 0x57 ≤ s.gas.toNat := h.gas
  have hlen : Instr.jumpi.length = 1 := length_of_encode (op := 0x57) rfl
  rw [exec, execJumpi, dispatch_ok h, ← State.done_eq _ _ hgas, ← raise_spend _ hgas]
  simp only [conditionHolds_iff, Bool.and_eq_true, Bool.not_eq_true', ← Bool.not_eq_true,
    State.validTarget_spend, State.validTarget_iff, opcode, State.S_spend, State.spend_params, hlen]
  rfl

/-- Settles O27: one clause for each way through the two conditions. -/
theorem jumpiOnCondition : Obligations.JumpiOnCondition := by
  have hd : DescriptorRule .jumpi 0x57 2 (-2) 10 := .of_columns rfl rfl rfl
  refine ⟨hd, rfl, rfl, fun s t c rest hs hst hgas => ?_⟩
  have hmin : 2 ≤ s.depth := by simp [State.depth_eq, hst]
  have hexec := exec_jumpi_of_dispatched (hd.dispatched (by decide) hgas hmin hs.depth)
  obtain rfl := s.S_cons_zero _ _ hst
  obtain rfl := s.S_cons_one _ _ _ hst
  obtain rfl : s.stack.drop 2 = rest := by rw [hst]; rfl
  rw [hexec]
  refine ⟨fun hc ht => ⟨hs.target_toNat ht, ?_⟩, fun hc ht => ?_, fun hc hcheck ht => ?_,
    fun hc hpass => ?_⟩
  · rw [if_pos hc, jumpTo_of_mem 2 hgas ht]
  · rw [if_pos hc, jumpTo_of_not_mem 2 hgas ht]
  · rw [if_neg (not_not_intro hc), if_pos ⟨hcheck, ht⟩]
  · have hsilent : ¬ (s.params.jumpiCheckUntaken = true ∧ (s.S 0).toNat ∉ s.jd) := by
      rintro ⟨hcheck, ht⟩
      simp [hcheck, ht] at hpass
    rw [if_neg (not_not_intro hc), if_neg hsilent]

/-! ### JUMPDEST and PC (R403, R404) -/

/-- JUMPDEST has no effect but its charge and the default advance. -/
theorem exec_jumpdest_done {s : State} (hcap : s.depth ≤ 1024) (hgas : s.baseGas 0x5B ≤ s.gas.toNat) :
    exec .jumpdest s = .next (s.done (s.baseGas 0x5B) s.stack 1) := by
  have hd : DescriptorRule .jumpdest 0x5B 0 0 1 := .of_columns rfl rfl rfl
  have hdis := hd.dispatched le_rfl hgas (Nat.zero_le _) hcap
  rw [exec, execJumpdest, dispatch_ok hdis, ← State.done_eq _ _ hgas]
  rfl

/-- Settles O28: a marker is in JD where an instruction starts, and the charge leaves the pc that PC pushes. -/
theorem jumpdestPc : Obligations.JumpdestPc := by
  refine ⟨⟨.of_columns rfl rfl rfl, rfl, fun _ => exec_jumpdest_done⟩,
    fun code d hget => ⟨instrStart_of_mem_buildJD, fun h => h.mem_buildJD hget⟩, ?_⟩
  have hd : DescriptorRule .pc 0x58 0 1 2 := .of_columns rfl rfl rfl
  refine ⟨hd, rfl, fun s hroom hgas => ?_⟩
  have hdone := pushOp_done hd (fun t => t.pc.setWidth 256) hgas (Nat.zero_le _) hroom
  rwa [State.spend_pc, ← BitVec.ofNat_toNat] at hdone

end Sys2Proof.Machine
end

section
/-! The halting instructions (spec/47_halting.md). STOP and INVALID end the execution right after the base charge.
RETURN and REVERT share `haltWithData`: its ceiling, its expansion charge and its data are said once, for either
outcome. -/

namespace Sys2Proof.Machine

/-! ### STOP (R421) -/

/-- Settles O29: past its checks, STOP is a halt that leaves the stack as it is. -/
theorem stopHalts : Obligations.StopHalts := by
  have hd : DescriptorRule .stop 0x00 0 0 0 := .of_columns rfl rfl rfl
  refine ⟨hd, rfl, fun s hcap hgas => ?_⟩
  have hdis := hd.dispatched le_rfl hgas (Nat.zero_le _) hcap
  rw [exec, execStop, dispatch_ok hdis, ← State.haltedWith_eq _ _ _ hgas]
  rfl

/-! ### RETURN and REVERT (R422, R423) -/

/-- Byte `k` of a range read is the byte at the `k`-th address of the range. -/
theorem Memory.readBytes_getElem? (m : Memory) (a : Nat) {k n : Nat} (hk : k < n) :
    (Memory.readBytes m a n)[k]? = some (Memory.read m (a + k)) := by
  simp [Memory.readBytes, hk]

/-- The end of a halt with the bytes of a range, as the state a rule describes. -/
theorem State.haltedWith_access_eq {s : State} {cost : Nat} (n : Nat) (stack : List Word)
    (k : OutcomeKind) (data : List Byte) (h : cost ≤ s.gas.toNat) :
    ({ s.spend cost with msize := n }.setStack stack).finish k data =
      { s.haltedWith cost stack k data with msize := n } :=
  State.haltedWith_eq (s := { s with msize := n }) stack k data h

/-- Past its checks, a halt with data faults at the ceiling, then at the expansion charge, and else ends the
execution with the bytes of the range. -/
theorem DescriptorRule.haltsWithRange {i : Instr} {op : Byte} {base : Nat} {k : OutcomeKind}
    (hd : DescriptorRule i op 2 (-2) base) (hexec : exec i = haltWithData i k) {s : State}
    {off size : Word} {rest : List Word} (hs : s.Inv) (hst : s.stack = off :: size :: rest)
    (hgas : s.baseGas op ≤ s.gas.toNat) :
    let cost := s.baseGas op + s.accessCost off.toNat size.toNat
    (s.overCeiling off.toNat size.toNat →
      exec i s = .next (s.faulted .memoryLimitExceeded (s.baseGas op))) ∧
    (¬ s.overCeiling off.toNat size.toNat → s.gas.toNat < cost →
      exec i s = .next (s.faulted .outOfGas (s.baseGas op))) ∧
    (¬ s.overCeiling off.toNat size.toNat → cost ≤ s.gas.toNat →
      ∃ data : List Byte, data.length = size.toNat ∧
        (∀ j < size.toNat, data[j]? = some (Memory.read s.mem (off.toNat + j))) ∧
        exec i s = .next
          { s.haltedWith cost rest k data with msize := s.reach off.toNat size.toNat }) := by
  have hmin : 2 ≤ s.depth := by simp [State.depth_eq, hst]
  have hdis := hd.dispatched (by decide) hgas hmin hs.depth
  obtain rfl := s.S_cons_zero _ _ hst
  obtain rfl := s.S_cons_one _ _ _ hst
  obtain rfl : s.stack.drop 2 = rest := by rw [hst]; rfl
  rw [hexec, haltWithData, dispatch_ok hdis, State.S_spend, State.S_spend, hd.1]
  obtain ⟨hceil, hout, hnext⟩ := expand_spend hs.memLow hgas (s.S 0).toNat (s.S 1).toNat
    fun t => halt k (Memory.readBytes t.mem (t.S 0).toNat (t.S 1).toNat) (t.drop 2)
  refine ⟨hceil, hout, fun hc hcost =>
    ⟨_, Memory.readBytes_length s.mem _ _, fun j => Memory.readBytes_getElem? s.mem _, ?_⟩⟩
  rw [hnext hc hcost]
  exact congrArg _ (State.haltedWith_access_eq _ _ k _ hcost)

/-- Settles O30: RETURN is a halt with data whose outcome is Return. -/
theorem returnHalts : Obligations.ReturnHalts := by
  have hd : DescriptorRule .ret 0xF3 2 (-2) 0 := .of_columns rfl rfl rfl
  exact ⟨hd, rfl, fun _ _ _ _ => hd.haltsWithRange rfl⟩

/-- Settles O31: REVERT is a halt with data whose outcome is Revert. -/
theorem revertHalts : Obligations.RevertHalts := by
  have hd : DescriptorRule .revert 0xFD 2 (-2) 0 := .of_columns rfl rfl rfl
  exact ⟨hd, rfl, fun _ _ _ _ => hd.haltsWithRange rfl⟩

/-! ### INVALID and the unassigned bytes (R107, R141, R424) -/

/-- A running state at an unassigned byte runs the invalid handler, whatever its gas and its depth. -/
theorem step_of_unassignedRanges {s : State} {op : Byte} (hh : s.halted = false)
    (hget : s.code[s.pc.toNat]? = some op) (hin : InRanges unassignedRanges op) :
    step s = invalidOpcode s := by
  obtain ⟨hrow, href⟩ := unassignedRanges_disjoint op hin
  apply step_unassigned hh
  rw [State.fetchBytes_of_get hget, decode_of_notMem hrow href]

/-- Settles O32: INVALID runs the handler that the unassigned bytes run, and its whole effect is to raise. -/
theorem invalidFaults : Obligations.InvalidFaults := by
  have hd : DescriptorRule .invalid 0xFE 0 0 0 := .of_columns rfl rfl rfl
  refine ⟨hd, rfl, fun s hcap hgas => ?_, fun _ _ => step_of_unassignedRanges⟩
  have hdis := hd.dispatched le_rfl hgas (Nat.zero_le _) hcap
  rw [exec, execInvalid, invalidOpcode, dispatch_ok hdis]
  exact raise_spend _ hgas

end Sys2Proof.Machine
end

section
/-! The outcomes of spec/60_exceptions.md and the warm restart of spec/70_reset_and_hazards.md. Both rest on what
every instruction and every run leave alone: the code and, for a restart, all that `freshFrame` does not write. -/

namespace Sys2Proof.Machine

/-! ### Every instruction answers (R441, R159) -/

/-- The frame of an instruction, whether it faults or runs: the code stays (R40) and gas never rises (R159). -/
theorem exec_code_gas_le {i : Instr} {s t : State} (h : exec i s = .next t) :
    t.code = s.code ∧ t.gas.toNat ≤ s.gas.toNat := by
  obtain ⟨_, _, hg, rfl⟩ | hr := exec_ended_or_ran h
  · exact ⟨rfl, hg⟩
  · exact ⟨hr.code, (Nat.le_add_right _ _).trans hr.gas⟩

/-- Settles O36: `exec` is total, and a fault is a next state whose frame is that of every other one. -/
theorem everyInstructionAnswers : Obligations.EveryInstructionAnswers := by
  intro i s
  obtain ⟨t, ht⟩ := exec_next i s
  exact ⟨t, ht, exec_code_gas_le ht⟩

/-! ### The warm restart (R484) -/

/-- Every state a run reaches has the Program and the parameters of the first (R40, R41). -/
theorem run_program {n : Nat} {s u : State} (h : core.run n s = .next u) :
    u.params = s.params ∧ u.code = s.code ∧ u.jd = s.jd :=
  run_keeps (P := fun v => v.params = s.params ∧ v.code = s.code ∧ v.jd = s.jd)
    (fun _ _ ⟨hp, hc, hj⟩ hstep =>
      have ⟨hp', hc', hj', _⟩ := step_program hstep
      ⟨hp'.trans hp, hc'.trans hc, hj'.trans hj⟩)
    ⟨rfl, rfl, rfl⟩ h

/-- A fresh CallFrame keeps the parameters and the Program of the state before, and nothing else of it. -/
theorem State.freshFrame_congr {s u : State} (t : Transaction) (hp : u.params = s.params)
    (hc : u.code = s.code) (hj : u.jd = s.jd) : u.freshFrame t = s.freshFrame t := by
  simp only [State.freshFrame, hp, hc, hj]

/-- The restart of a state that holds an admitted Program is the cold start of that Program. -/
theorem restartExecution_eq_started {p : Params} {t : Transaction} {u : State} (hp : u.params = p)
    (hc : u.code = t.code) (hj : u.jd = buildJD t.code) :
    restartExecution u t = State.started p t :=
  State.freshFrame_congr t hp hc hj

/-- Settles O60: the run leaves the Program of the first start in place, and the second transaction, of the
same code, is admitted as the first was. -/
theorem warmRestart : Obligations.WarmRestart := by
  intro p t t' s u n hcode hstart hrun
  obtain ⟨hadm, rfl⟩ := startExecution_next hstart
  obtain ⟨hp, hc, hj⟩ := run_program hrun
  have hrestart : restartExecution u t' = State.started p t' :=
    restartExecution_eq_started hp (hc.trans hcode.symm) (hj.trans (congrArg buildJD hcode.symm))
  rw [startExecution_admitted (hcode ▸ hadm), hrestart]

end Sys2Proof.Machine
end
